-- ==== Sys2Proof/Config.lean ====
section
/-! DEFINITION. Config: the implementation parameters of the block (00_scope.md rule R7) and the
values this model fixes.  No value of this hardware is left free: the spec gives every operation a
total, decided result (30_encoding.md rule R89), so there is no opaque constant here.

DESIGN CHOICE (log entry 1): the machine is fixed at `AW = 32`; the four match functions of
Machine/Matcher.lean are written for every width. -/

namespace Sys2Proof.Config

/-- Width of a judged address, of a boundary register and of `wdata`/`rdata` (R7, decision D1). -/
abbrev AW : Nat := 32

/-- Width of a config register (R7, R23). -/
abbrev CW : Nat := 8

/-- Number of table entries, fixed (R7, R22). -/
abbrev NREG : Nat := 64

/-- Number of check ports (R7, decisions D3 and D24; log entry 2). -/
abbrev NCHK : Nat := 1

/-- Width of the configuration index (R7, R27). -/
abbrev IW : Nat := 7

/-- Width of a format K word, the check request (R70, R75). -/
abbrev kBits : Nat := AW + 4

/-- Width of a format C word, the configuration command (R70, R81). -/
abbrev cBits : Nat := AW + 10

end Sys2Proof.Config
end

