-- ==== Sys2Proof/Word.lean ====
section
/-! DEFINITION. Word: the words the block holds and receives.  The widths stand as numerals, so that
the lemmas of the library apply; Tests/Slice0.lean shows that they are the widths of Config. -/

namespace Sys2Proof

/-- An address, a boundary, `wdata` or `rdata`: `AW` bits (R7, R26, R78, R84, R85). -/
abbrev Word := BitVec 32

/-- A config register: 8 bits (R23). -/
abbrev CfgByte := BitVec 8

/-- A check request word, format K: `AW + 4` bits (R75). -/
abbrev KWord := BitVec 36

/-- A configuration command word, format C: `AW + 10` bits (R81). -/
abbrev CWord := BitVec 42

/-- A configuration index as it stands in a command word: 7 bits (R83). -/
abbrev Idx := BitVec 7

/-- One byte of a word laid out in bytes (log entry 8). -/
abbrev Byte := BitVec 8

end Sys2Proof
end

