-- ==== Sys2Proof/Syntax.lean ====
section
/-! DEFINITION. Syntax: the enumerations of 00_scope.md rule R11, the fields of the three formats, and
`Instr`, one constructor for each of the 16 rows of spec/opcode_table.json. -/

namespace Sys2Proof

/-- The matching mode, field `A` of a config byte (R72).  The two bits enumerate four modes, so there
is no invalid one (R24). -/
inductive Mode where
  | off | tor | na4 | napot
  deriving DecidableEq, Repr

/-- The operation a request asks about (R11, R76).  The spare code 3 is no operation: it is the
constructor `Instr.reservedOp3`. -/
inductive Op where
  | read | write | execute
  deriving DecidableEq, Repr

/-- The `priv` field of a request (R77): three levels and the reserved code 2 (R87). -/
inductive Priv where
  | user | supervisor | reserved | machine
  deriving DecidableEq, Repr

/-- A register of a table, as the 7-bit index names it (R27): `cfg i` is index `i`, `addr i` is index
`64 + i`. -/
inductive Reg where
  | cfg (i : Fin 64)
  | addr (i : Fin 64)
  deriving DecidableEq, Repr

/-- The bits of a config byte beside the mode: bits 7:5 (unused, R25) and the flags `X`, `W`, `R` in
bits 2, 1, 0 (R71). -/
structure CfgFlags where
  unused : BitVec 3
  x : Bool
  w : Bool
  r : Bool
  deriving DecidableEq, Repr

/-- What DECODE reads from a config byte (R100). -/
structure Region where
  mode : Mode
  canRead : Bool
  canWrite : Bool
  canExecute : Bool
  deriving DecidableEq, Repr

/-- The three formats of 30_encoding.md rule R70. -/
inductive Format where
  | g | k | c
  deriving DecidableEq, Repr

/-- A word of one of the three formats. -/
inductive FormatWord where
  | g (w : CfgByte)
  | k (w : KWord)
  | c (w : CWord)
  deriving DecidableEq, Repr

/-- One constructor per row of the opcode table.  A field an operation does not read (R82) is kept, so
that the word and the instruction determine each other. -/
inductive Instr where
  /-- CHECK.R, format K, `op = 0` (R135). -/
  | checkR (priv : Priv) (addr : Word)
  /-- CHECK.W, format K, `op = 1` (R136). -/
  | checkW (priv : Priv) (addr : Word)
  /-- CHECK.X, format K, `op = 2` (R137). -/
  | checkX (priv : Priv) (addr : Word)
  /-- The reserved code `op = 3` of format K (R86, R138). -/
  | reservedOp3 (priv : Priv) (addr : Word)
  /-- NOP, format C, `cmd = 0` (R150); both fields ignored. -/
  | nop (idx : Idx) (wdata : Word)
  /-- WR, format C, `cmd = 1` (R152). -/
  | wr (reg : Reg) (wdata : Word)
  /-- RDS, format C, `cmd = 2` (R154); `wdata` ignored. -/
  | rds (reg : Reg) (wdata : Word)
  /-- RDA, format C, `cmd = 3` (R155); `wdata` ignored. -/
  | rda (reg : Reg) (wdata : Word)
  /-- COMMIT, format C, `cmd = 4` (R157); both fields ignored. -/
  | commit (idx : Idx) (wdata : Word)
  /-- Reserved command 5 (R88, R159); both fields ignored. -/
  | reservedCmd5 (idx : Idx) (wdata : Word)
  /-- Reserved command 6 (R88, R159); both fields ignored. -/
  | reservedCmd6 (idx : Idx) (wdata : Word)
  /-- Reserved command 7 (R88, R159); both fields ignored. -/
  | reservedCmd7 (idx : Idx) (wdata : Word)
  /-- MATCH.OFF, a config byte with `A = 0` (R102). -/
  | matchOff (flags : CfgFlags)
  /-- MATCH.TOR, a config byte with `A = 1` (R104). -/
  | matchTor (flags : CfgFlags)
  /-- MATCH.NA4, a config byte with `A = 2` (R106). -/
  | matchNa4 (flags : CfgFlags)
  /-- MATCH.NAPOT, a config byte with `A = 3` (R108). -/
  | matchNapot (flags : CfgFlags)
  deriving DecidableEq, Repr

end Sys2Proof
end

