-- ==== Sys2Proof/WellFormed.lean ====
section
/-! DEFINITION. WellFormed: the checks the spec makes on what is presented to the block.

Every word on either port and every config byte has a defined behaviour (R24, R89), so no check here
guards an execution: the machine gives every `Instr` its effect, and decoding and encoding agree on all
of them.  What the spec does check is said by three predicates: the source's well-typed domain, which
its caller validates (R86, R87, 93_implementation_defined.md U1, U2, U7); the form the spec's own
assembler syntax writes (R90); and the fit of a table in the source's format to the registers it is
loaded into (R160). -/

namespace Sys2Proof

/-- The instruction is one the source names: an operation in {Read, Write, Execute} with a level in
{Machine, Supervisor, User} (R142), a command the configuration port names (R82), or a match
function (R101).  The codes the spec calls reserved are outside (R86, R87, R88). -/
def Instr.inSourceDomain : Instr → Bool
  | .checkR p _ => decide (p ≠ .reserved)
  | .checkW p _ => decide (p ≠ .reserved)
  | .checkX p _ => decide (p ≠ .reserved)
  | .reservedOp3 _ _ => false
  | .nop _ _ => true
  | .wr _ _ => true
  | .rds _ _ => true
  | .rda _ _ => true
  | .commit _ _ => true
  | .reservedCmd5 _ _ => false
  | .reservedCmd6 _ _ => false
  | .reservedCmd7 _ _ => false
  | .matchOff _ => true
  | .matchTor _ => true
  | .matchNa4 _ => true
  | .matchNapot _ => true

/-- The instruction is written by the assembler syntax of R90: a field the operation does not read
is 0, and the reserved codes and the config bytes have no syntax. -/
def Instr.inSyntax : Instr → Bool
  | .checkR p _ => decide (p ≠ .reserved)
  | .checkW p _ => decide (p ≠ .reserved)
  | .checkX p _ => decide (p ≠ .reserved)
  | .reservedOp3 _ _ => false
  | .nop idx wdata => decide (idx = 0 ∧ wdata = 0)
  | .wr _ _ => true
  | .rds _ wdata => decide (wdata = 0)
  | .rda _ wdata => decide (wdata = 0)
  | .commit idx wdata => decide (idx = 0 ∧ wdata = 0)
  | .reservedCmd5 _ _ => false
  | .reservedCmd6 _ _ => false
  | .reservedCmd7 _ _ => false
  | .matchOff _ => false
  | .matchTor _ => false
  | .matchNa4 _ => false
  | .matchNapot _ => false

/-- A table in the source's format fits the registers: exactly 128 numbers, the first 64 below `2^8`,
the others below `2^AW` (R22, R160). -/
def tableFits (e : List Nat) : Bool :=
  decide (e.length = 128)
    && (e.take 64).all (fun n => decide (n < 2 ^ 8))
    && (e.drop 64).all (fun n => decide (n < 2 ^ 32))

end Sys2Proof
end

