-- ==== Sys2Proof/Decode.lean ====
section
/-! DEFINITION. Decode: the three formats of 30_encoding.md, from bits to `Instr` and back.  Decoding is
total on the words of each format (R89); a layout in bytes is rejected, by name, where it is no word of
its format. -/

namespace Sys2Proof

/-- Field `priv` of a request word (R77), from its high and its low bit. -/
def decodePriv (hi lo : Bool) : Priv :=
  match hi, lo with
  | false, false => .user
  | false, true => .supervisor
  | true, false => .reserved
  | true, true => .machine

/-- Field `idx` of a command word (R27, R83): bit 6 chooses the kind, bits 5:0 the entry. -/
def decodeReg (idx : Idx) : Reg :=
  let entry : Fin 64 := ⟨(idx.extractLsb' 0 6).toNat, (idx.extractLsb' 0 6).isLt⟩
  if idx.getLsbD 6 then .addr entry else .cfg entry

/-- Format K (R75, R76): `addr` in bits 35:4, `priv` in 3:2, `op` in 1:0. -/
def decodeK (k : KWord) : Instr :=
  let addr : Word := k.extractLsb' 4 32
  let priv := decodePriv (k.getLsbD 3) (k.getLsbD 2)
  match k.getLsbD 1, k.getLsbD 0 with
  | false, false => .checkR priv addr
  | false, true => .checkW priv addr
  | true, false => .checkX priv addr
  | true, true => .reservedOp3 priv addr

/-- Format C (R81, R82): `wdata` in bits 41:10, `idx` in 9:3, `cmd` in 2:0. -/
def decodeC (c : CWord) : Instr :=
  let wdata : Word := c.extractLsb' 10 32
  let idx : Idx := c.extractLsb' 3 7
  match c.getLsbD 2, c.getLsbD 1, c.getLsbD 0 with
  | false, false, false => .nop idx wdata
  | false, false, true => .wr (decodeReg idx) wdata
  | false, true, false => .rds (decodeReg idx) wdata
  | false, true, true => .rda (decodeReg idx) wdata
  | true, false, false => .commit idx wdata
  | true, false, true => .reservedCmd5 idx wdata
  | true, true, false => .reservedCmd6 idx wdata
  | true, true, true => .reservedCmd7 idx wdata

/-- Field `A` of a config byte (R72): bits 4:3. -/
def decodeMode (c : CfgByte) : Mode :=
  match c.getLsbD 4, c.getLsbD 3 with
  | false, false => .off
  | false, true => .tor
  | true, false => .na4
  | true, true => .napot

/-- The bits of a config byte beside the mode (R71). -/
def decodeFlags (c : CfgByte) : CfgFlags :=
  { unused := c.extractLsb' 5 3, x := c.getLsbD 2, w := c.getLsbD 1, r := c.getLsbD 0 }

/-- Format G (R71, R72): the mode selects the match function. -/
def decodeG (c : CfgByte) : Instr :=
  match decodeMode c with
  | .off => .matchOff (decodeFlags c)
  | .tor => .matchTor (decodeFlags c)
  | .na4 => .matchNa4 (decodeFlags c)
  | .napot => .matchNapot (decodeFlags c)

/-- A word of any format.  The port it stands on says which format it is (R70). -/
def decodeWord : FormatWord → Instr
  | .g w => decodeG w
  | .k w => decodeK w
  | .c w => decodeC w

/-! ### Words laid out in bytes -/

/-- Why a layout in bytes is no word of its format.  The block itself has no such error: a port word
always has the right number of bits (R173). -/
inductive DecodeError where
  /-- The number of bytes is not that of the format. -/
  | wrongLength
  /-- A bit above the format's width is set: bits 39:36 of a request, bits 47:42 of a command. -/
  | paddingSet
  deriving DecidableEq, Repr

/-- The width of a format's word (R70 at `AW = 32`). -/
def Format.bits : Format → Nat
  | .g => 8
  | .k => 36
  | .c => 42

/-- The whole bytes a format's word takes. -/
def Format.bytes : Format → Nat
  | .g => 1
  | .k => 5
  | .c => 6

/-- The number whose bytes are `bs`, the first byte least significant (DESIGN CHOICE, log entry 8:
the spec has no byte order, R54). -/
def ofBytes : List Byte → Nat
  | [] => 0
  | b :: bs => b.toNat + 256 * ofBytes bs

/-- The first `n` bytes of a number, least significant first (log entry 8). -/
def toBytes : Nat → Nat → List Byte
  | 0, _ => []
  | n + 1, w => BitVec.ofNat 8 w :: toBytes n (w / 256)

/-- The word of a format with the given bits. -/
def Format.word : Format → Nat → FormatWord
  | .g, n => .g (BitVec.ofNat 8 n)
  | .k, n => .k (BitVec.ofNat 36 n)
  | .c, n => .c (BitVec.ofNat 42 n)

/-- The format of a word. -/
def FormatWord.format : FormatWord → Format
  | .g _ => .g
  | .k _ => .k
  | .c _ => .c

/-- The bits of a word, as a number. -/
def FormatWord.toNat : FormatWord → Nat
  | .g w => w.toNat
  | .k w => w.toNat
  | .c w => w.toNat

/-- The bytes of a word, as the model lays them out (log entry 8). -/
def FormatWord.layout (w : FormatWord) : List Byte := toBytes w.format.bytes w.toNat

/-- Decoding is total on any bytes: an instruction, or the reason why the bytes are no word of the
format. -/
def decode (f : Format) (bs : List Byte) : Except DecodeError Instr :=
  if bs.length ≠ f.bytes then .error .wrongLength
  else if 2 ^ f.bits ≤ ofBytes bs then .error .paddingSet
  else .ok (decodeWord (f.word (ofBytes bs)))

/-- The format of a row of the opcode table that has `nbits` bits (log entry 8): 8 bits are a config
byte, up to 40 a request word, more a command word. -/
def formatOfBits (nbits : Nat) : Format :=
  if nbits ≤ 8 then .g else if nbits ≤ 40 then .k else .c

/-- The instruction the decoder reads from a row's word, its bits numbered as the opcode table
numbers them. -/
def decodeTableWord (nbits w : Nat) : Option Instr :=
  let f := formatOfBits nbits
  if 2 ^ (8 * f.bytes) ≤ w then none
  else
    match decode f (toBytes f.bytes w) with
    | .ok i => some i
    | .error _ => none

/-! ### The encoder -/

/-- The code of a privilege level (R77). -/
def encodePriv : Priv → BitVec 2
  | .user => 0
  | .supervisor => 1
  | .reserved => 2
  | .machine => 3

/-- The index of a register (R27): `i` for `cfg i`, `64 + i` for `addr i`. -/
def encodeReg : Reg → Idx
  | .cfg i => BitVec.ofNat 7 i.val
  | .addr i => BitVec.ofNat 7 (64 + i.val)

/-- A request word from its fields (R75). -/
def encodeK (addr : Word) (priv : Priv) (op : BitVec 2) : FormatWord :=
  .k (addr ++ encodePriv priv ++ op)

/-- A command word from its fields (R81). -/
def encodeC (wdata : Word) (idx : Idx) (cmd : BitVec 3) : FormatWord :=
  .c (wdata ++ idx ++ cmd)

/-- A config byte from its fields (R71). -/
def encodeG (f : CfgFlags) (mode : BitVec 2) : FormatWord :=
  .g (f.unused ++ mode ++ BitVec.ofBool f.x ++ BitVec.ofBool f.w ++ BitVec.ofBool f.r)

/-- The word of an instruction (R71, R72, R75 to R77, R81 to R83). -/
def encode : Instr → FormatWord
  | .checkR priv addr => encodeK addr priv 0
  | .checkW priv addr => encodeK addr priv 1
  | .checkX priv addr => encodeK addr priv 2
  | .reservedOp3 priv addr => encodeK addr priv 3
  | .nop idx wdata => encodeC wdata idx 0
  | .wr reg wdata => encodeC wdata (encodeReg reg) 1
  | .rds reg wdata => encodeC wdata (encodeReg reg) 2
  | .rda reg wdata => encodeC wdata (encodeReg reg) 3
  | .commit idx wdata => encodeC wdata idx 4
  | .reservedCmd5 idx wdata => encodeC wdata idx 5
  | .reservedCmd6 idx wdata => encodeC wdata idx 6
  | .reservedCmd7 idx wdata => encodeC wdata idx 7
  | .matchOff f => encodeG f 0
  | .matchTor f => encodeG f 1
  | .matchNa4 f => encodeG f 2
  | .matchNapot f => encodeG f 3

end Sys2Proof
end

