-- ==== Sys2Proof/Machine/State.lean ====
section
/-! DEFINITION. State: what the block holds (10_state.md), and beside it the model's own fields: what the
environment has still to present, and what the outputs showed in the last step.

The block has no memory, no program counter, no flags, no exception registers and no mode
(R29 to R33, R35, R50), so there is none here. -/

namespace Sys2Proof.Machine

/-- The decision, "One of {Allowed, Fault}. No other states." (R11, R79).  `fault` is a returned value,
never a trap (R12, R170). -/
inductive Decision where
  | allowed | fault
  deriving DecidableEq, Repr

/-- The causes of a `Fault` decision (R171).  The block does not output them: they are labels for
claims. -/
inductive FaultCause where
  | noMatch | denied | rsvOp
  deriving DecidableEq, Repr

/-- A table of exactly 64 entries, each a config register and a boundary register (R20 to R22). -/
structure Table where
  cfg : Vector CfgByte 64
  addr : Vector Word 64
  deriving DecidableEq, Repr

/-- The table of zeros (R34). -/
def Table.zero : Table :=
  { cfg := Vector.replicate 64 0, addr := Vector.replicate 64 0 }

/-- What a MATCH row of the opcode table is observed on: an entry of the active table and a judged
address (DESIGN CHOICE, log entry 5). -/
structure Probe where
  entry : Fin 64
  addr : Word
  deriving DecidableEq, Repr

/-- What the environment presents to the block in one moment (R14; log entry 3). -/
inductive Input where
  /-- Reset (R190). -/
  | reset
  /-- A request word on the check port, or none, and a command word on the configuration port, or
  none (R74, R80). -/
  | ports (check : Option KWord) (config : Option CWord)
  /-- Not of the spec: observe the match function that an entry's config byte selects (log entry 5). -/
  | matcher (entry : Fin 64) (addr : Word)
  deriving DecidableEq, Repr

/-- What the next step is about, once the input is taken. -/
inductive Fetched where
  | idle
  | reset
  | run (i : Instr)
  deriving DecidableEq, Repr

/-- The ways a step can stop with a fault: none.  "no `fault`, no `stuck` state anywhere in the block"
(93_implementation_defined.md U8; R89, R142, R170).  Nothing raises one (safe, log entry 13). -/
inductive Fault where
  deriving DecidableEq, Repr

/-- The ways an instruction can be refused. -/
inductive Refusal where
  /-- An instruction that has no meaning yet, by its mnemonic, raised by exec's arms only.  Safe.
  No arm of this model raises it. -/
  | notModelled (mnemonic : String)
  deriving DecidableEq, Repr

/-- The state of the machine. -/
structure State where
  /-- The active table `T` (R20). -/
  active : Table
  /-- The staging table `S` (R21). -/
  staging : Table
  /-- The model's own: what the environment presents next, in order (R61, log entry 3). -/
  inputs : List Input
  /-- The model's own: what a MATCH row is observed on (log entry 5). -/
  probe : Probe
  /-- The model's own record of the check port's response in the last step (R79): the decision if a
  request was judged in it, none otherwise (log entry 4).  Nothing reads it (R141). -/
  decision : Option Decision
  /-- The model's own record of the configuration port's `rdata` in the last step: 0 unless it was an
  RDS or an RDA (R80, R85, log entries 4 and 14).  Nothing reads it. -/
  rdata : Word
  /-- The model's own record of the match observed in the last step, if one was (log entry 5).
  Nothing reads it. -/
  matched : Option Bool
  deriving DecidableEq, Repr

/-- The machine right after reset: every register of both tables is zero (R34, R190).  The model's own
fields: nothing pending, nothing observed (DESIGN CHOICE, log entry 6). -/
def State.reset : State :=
  { active := Table.zero
    staging := Table.zero
    inputs := []
    probe := { entry := 0, addr := 0 }
    decision := none
    rdata := 0
    matched := none }

end Sys2Proof.Machine
end

