-- ==== Sys2Proof/Machine/Ops.lean ====
section
/-! DEFINITION. Ops: the named operations over the two tables and over the outputs.

Taking an exception and returning from one have no operation here, because the block has neither: it
raises no exception and takes no trap, saves nothing and sends control nowhere (R170, R177, R178).  Its
only negative outcome is the decision `Fault`, which `State.answerCheck` records like the other. -/

namespace Sys2Proof.Machine

/-- What RDS and RDA read: a boundary register whole, a config register with zeros above (R85, R154,
R155). -/
def Table.readReg (t : Table) : Reg → Word
  | .cfg i => (t.cfg[i]).setWidth 32
  | .addr i => t.addr[i]

/-- What WR writes: a boundary register takes all `AW` bits, a config register `wdata[7:0]` (R84,
R152). -/
def Table.writeReg (t : Table) (r : Reg) (wdata : Word) : Table :=
  match r with
  | .cfg i => { t with cfg := t.cfg.set i (wdata.setWidth 8) }
  | .addr i => { t with addr := t.addr.set i wdata }

/-- The step of a request: its decision is on the check port, the configuration port is idle and
shows 0 (R79, R80). -/
def State.answerCheck (s : State) (d : Decision) : State :=
  { s with decision := some d, rdata := 0, matched := none }

/-- The step of a command: `rdata` is on the configuration port, no request is judged (R80, R85). -/
def State.answerConfig (s : State) (v : Word) : State :=
  { s with decision := none, rdata := v, matched := none }

/-- The step of an observed match function (log entry 5). -/
def State.answerMatch (s : State) (b : Bool) : State :=
  { s with decision := none, rdata := 0, matched := some b }

/-- A step in which nothing is presented (R80, R150). -/
def State.idle (s : State) : State := s.answerConfig 0

/-- WR's effect on the machine: one register of the staging table (R152). -/
def State.stage (s : State) (r : Reg) (wdata : Word) : State :=
  { s with staging := s.staging.writeReg r wdata }

/-- COMMIT's effect on the machine: the active table becomes a copy of the staging table (R157). -/
def State.publish (s : State) : State :=
  { s with active := s.staging }

/-- Reset as a step: every register of both tables to 0, and no other effect (R34, R190). -/
def State.resetTables (s : State) : State :=
  { s with active := Table.zero, staging := Table.zero }

end Sys2Proof.Machine
end

