-- ==== Sys2Proof/Machine/Operands.lean ====
section
/-! DEFINITION. Operands: where the matcher takes its operands from (30_encoding.md rule R73). -/

namespace Sys2Proof.Machine

/-- DECODE: a config byte into a mode and three flags (R100).  Bits 7:5 have no effect. -/
def decodeRegion (c : CfgByte) : Region :=
  { mode := decodeMode c
    canRead := c.getLsbD 0
    canWrite := c.getLsbD 1
    canExecute := c.getLsbD 2 }

/-- The previous boundary of an entry: the raw boundary register of the entry before, whatever its
mode, and 0 for entry 0 (R73, R132). -/
def Table.prev (t : Table) (i : Fin 64) : Word :=
  if i.val = 0 then 0 else t.addr[i.val - 1]

/-- The entries in table order, each a config byte and its boundary (R20). -/
def Table.entries (t : Table) : List (CfgByte × Word) :=
  t.cfg.toList.zip t.addr.toList

end Sys2Proof.Machine
end

