-- ==== Sys2Proof/Machine/Flags.lean ====
section
/-! DEFINITION. Flags: the permission flags.  The block has no condition codes and no status bits
(R31); its flags are the three permission flags of a config byte. -/

namespace Sys2Proof.Machine

/-- PERMITS: the flag of the operation, and nothing else of the config byte (R112, R113). -/
def permits (c : CfgByte) : Op → Bool
  | .read => (decodeRegion c).canRead
  | .write => (decodeRegion c).canWrite
  | .execute => (decodeRegion c).canExecute

end Sys2Proof.Machine
end

