-- ==== Sys2Proof/Machine/Matcher.lean ====
section
/-! DEFINITION. Matcher: the region matcher (40_region.md) and the four MATCH rows.

The match functions are written for every width (R7, R111).  Their operands are taken as natural
numbers, so that `B + 4` does not wrap and a shift count is never reduced (R9, R114, decision D2). -/

namespace Sys2Proof.Machine

/-- MATCH.OFF (R102). -/
def matchOff {w : Nat} (_a : BitVec w) : Bool := false

/-- MATCH.TOR (R104). -/
def matchTor {w : Nat} (b p a : BitVec w) : Bool :=
  decide (p.toNat ≤ a.toNat) && decide (a.toNat < b.toNat)

/-- MATCH.NA4 (R106): `B + 4` is not reduced modulo `2^AW`. -/
def matchNa4 {w : Nat} (b a : BitVec w) : Bool :=
  decide (b.toNat ≤ a.toNat) && decide (a.toNat < b.toNat + 4)

/-- The shift count of MATCH.NAPOT: the boundary masked with the literal `0xFFFFFFFC`, as a number,
plus 2 (R73, R108; the literal as written at every width, R111). -/
def napotShift {w : Nat} (b : BitVec w) : Nat := (b.toNat &&& 0xFFFFFFFC) + 2

/-- MATCH.NAPOT (R108), in the form "(a >> k) == (B >> k)" that never builds `2^k` (R114; log
entry 12). -/
def matchNapot {w : Nat} (b a : BitVec w) : Bool :=
  a.toNat >>> napotShift b == b.toNat >>> napotShift b

/-- MATCH: the match function the mode selects (R101). -/
def matchCfg {w : Nat} (c : CfgByte) (b p a : BitVec w) : Bool :=
  match (decodeRegion c).mode with
  | .off => matchOff a
  | .tor => matchTor b p a
  | .na4 => matchNa4 b a
  | .napot => matchNapot b a

/-- The match result of entry `i` (R115, R133): `m[i]`. -/
def Table.matchAt (t : Table) (i : Fin 64) (a : Word) : Bool :=
  matchCfg t.cfg[i] t.addr[i] (t.prev i) a

/-! ### The MATCH rows

A MATCH row is selected by the config byte of an entry, not by a port word.  Its meaning is the match
function on the operands of the probed entry; no state of the block is written (log entry 5).  The
flags and bits 7:5 are not read (R101, R113). -/

/-- The row MATCH.OFF (R102). -/
def execMatchOff (_flags : CfgFlags) (s : State) : Host.Outcome State Fault Refusal :=
  .next (s.answerMatch (matchOff s.probe.addr))

/-- The row MATCH.TOR (R104). -/
def execMatchTor (_flags : CfgFlags) (s : State) : Host.Outcome State Fault Refusal :=
  .next (s.answerMatch
    (matchTor s.active.addr[s.probe.entry] (s.active.prev s.probe.entry) s.probe.addr))

/-- The row MATCH.NA4 (R106). -/
def execMatchNa4 (_flags : CfgFlags) (s : State) : Host.Outcome State Fault Refusal :=
  .next (s.answerMatch (matchNa4 s.active.addr[s.probe.entry] s.probe.addr))

/-- The row MATCH.NAPOT (R108). -/
def execMatchNapot (_flags : CfgFlags) (s : State) : Host.Outcome State Fault Refusal :=
  .next (s.answerMatch (matchNapot s.active.addr[s.probe.entry] s.probe.addr))

end Sys2Proof.Machine
end

