-- ==== Sys2Proof/Machine/Resolver.lean ====
section
/-! DEFINITION. Resolver: the policy resolver (41_resolver.md), the check port, and the four format K
rows. -/

namespace Sys2Proof.Machine

/-- The scan of R131 from some entry on, with the previous boundary it carries: the first entry that
matches decides by its flag, and where none matches the decision is `Fault`. -/
def scan (op : Op) (a : Word) : List (CfgByte × Word) → Word → Decision
  | [], _ => .fault
  | (c, b) :: rest, prev =>
    if matchCfg c b prev a then
      if permits c op then .allowed else .fault
    else scan op a rest b

/-- The decision on a request: the scan of the whole table, from previous boundary 0 (R131).  The
privilege level is no operand (R140). -/
def resolve (t : Table) (a : Word) (op : Op) : Decision := scan op a t.entries 0

/-! ### The same function without a loop (R133) -/

/-- The least matching entry, if one matches: the find-first over the match vector (R133). -/
def Table.firstMatch (t : Table) (a : Word) : Option (Fin 64) :=
  (List.finRange 64).find? (fun i => t.matchAt i a)

/-- The priority encoder of R133. -/
def resolveByVector (t : Table) (a : Word) (op : Op) : Decision :=
  match t.firstMatch a with
  | none => .fault
  | some i => if permits t.cfg[i] op then .allowed else .fault

/-- Why a request is denied, or none where it is allowed (R171). -/
def faultCause (t : Table) (a : Word) (op : Op) : Option FaultCause :=
  match t.firstMatch a with
  | none => some .noMatch
  | some i => if permits t.cfg[i] op then none else some .denied

/-! ### The check port (R74) -/

/-- The response bit of a decision (R79). -/
def Decision.bit : Decision → BitVec 1
  | .allowed => 0
  | .fault => 1

/-- The reference function of R16 on a two-bit operation code: the spare code is denied without
consulting the table (R86, R138). -/
def resolveCode (t : Table) (a : Word) (op : BitVec 2) : Decision :=
  match op.getLsbD 1, op.getLsbD 0 with
  | false, false => resolve t a .read
  | false, true => resolve t a .write
  | true, false => resolve t a .execute
  | true, true => .fault

/-- The output of the check port: a function of the request word it is driven with and of the active
table (R74, R130). -/
def checkPort (t : Table) (k : KWord) : BitVec 1 :=
  (resolveCode t (k.extractLsb' 4 32) (k.extractLsb' 0 2)).bit

/-! ### The format K rows -/

/-- CHECK.R (R135). -/
def execCheckR (_priv : Priv) (addr : Word) (s : State) : Host.Outcome State Fault Refusal :=
  .next (s.answerCheck (resolve s.active addr .read))

/-- CHECK.W (R136). -/
def execCheckW (_priv : Priv) (addr : Word) (s : State) : Host.Outcome State Fault Refusal :=
  .next (s.answerCheck (resolve s.active addr .write))

/-- CHECK.X (R137). -/
def execCheckX (_priv : Priv) (addr : Word) (s : State) : Host.Outcome State Fault Refusal :=
  .next (s.answerCheck (resolve s.active addr .execute))

/-- The reserved operation code: `Fault`, the table not consulted (R86, R138). -/
def execReservedOp3 (_priv : Priv) (_addr : Word) (s : State) : Host.Outcome State Fault Refusal :=
  .next (s.answerCheck .fault)

end Sys2Proof.Machine
end

