-- ==== Sys2Proof/Machine/TablePort.lean ====
section
/-! DEFINITION. TablePort: the configuration port (42_table_port.md), the eight format C rows. -/

namespace Sys2Proof.Machine

/-- NOP: nothing, and `rdata = 0` (R150). -/
def execNop (_idx : Idx) (_wdata : Word) (s : State) : Host.Outcome State Fault Refusal :=
  .next (s.answerConfig 0)

/-- WR: one register of the staging table (R152). -/
def execWr (reg : Reg) (wdata : Word) (s : State) : Host.Outcome State Fault Refusal :=
  .next ((s.stage reg wdata).answerConfig 0)

/-- RDS: read one register of the staging table (R154). -/
def execRds (reg : Reg) (_wdata : Word) (s : State) : Host.Outcome State Fault Refusal :=
  .next (s.answerConfig (s.staging.readReg reg))

/-- RDA: read one register of the active table (R155). -/
def execRda (reg : Reg) (_wdata : Word) (s : State) : Host.Outcome State Fault Refusal :=
  .next (s.answerConfig (s.active.readReg reg))

/-- COMMIT: publish the staging table in one step (R157). -/
def execCommit (_idx : Idx) (_wdata : Word) (s : State) : Host.Outcome State Fault Refusal :=
  .next (s.publish.answerConfig 0)

/-- Reserved command 5: as NOP (R88, R159). -/
def execReservedCmd5 (_idx : Idx) (_wdata : Word) (s : State) : Host.Outcome State Fault Refusal :=
  .next (s.answerConfig 0)

/-- Reserved command 6: as NOP (R88, R159). -/
def execReservedCmd6 (_idx : Idx) (_wdata : Word) (s : State) : Host.Outcome State Fault Refusal :=
  .next (s.answerConfig 0)

/-- Reserved command 7: as NOP (R88, R159). -/
def execReservedCmd7 (_idx : Idx) (_wdata : Word) (s : State) : Host.Outcome State Fault Refusal :=
  .next (s.answerConfig 0)

end Sys2Proof.Machine
end

