-- ==== Sys2Proof/Machine/Dispatch.lean ====
section
/-! DEFINITION. Dispatch: one arm per constructor of Instr. -/

namespace Sys2Proof.Machine

def exec (i : Instr) (s : State) : Host.Outcome State Fault Refusal :=
  match i with
  -- format K, the check port
  | .checkR priv addr => Sys2Proof.Machine.execCheckR priv addr s
  | .checkW priv addr => Sys2Proof.Machine.execCheckW priv addr s
  | .checkX priv addr => Sys2Proof.Machine.execCheckX priv addr s
  | .reservedOp3 priv addr => Sys2Proof.Machine.execReservedOp3 priv addr s
  -- format C, the configuration port
  | .nop idx wdata => Sys2Proof.Machine.execNop idx wdata s
  | .wr reg wdata => Sys2Proof.Machine.execWr reg wdata s
  | .rds reg wdata => Sys2Proof.Machine.execRds reg wdata s
  | .rda reg wdata => Sys2Proof.Machine.execRda reg wdata s
  | .commit idx wdata => Sys2Proof.Machine.execCommit idx wdata s
  | .reservedCmd5 idx wdata => Sys2Proof.Machine.execReservedCmd5 idx wdata s
  | .reservedCmd6 idx wdata => Sys2Proof.Machine.execReservedCmd6 idx wdata s
  | .reservedCmd7 idx wdata => Sys2Proof.Machine.execReservedCmd7 idx wdata s
  -- format G, the config byte of an entry
  | .matchOff flags => Sys2Proof.Machine.execMatchOff flags s
  | .matchTor flags => Sys2Proof.Machine.execMatchTor flags s
  | .matchNa4 flags => Sys2Proof.Machine.execMatchNa4 flags s
  | .matchNapot flags => Sys2Proof.Machine.execMatchNapot flags s

end Sys2Proof.Machine
end

