-- ==== Sys2Proof/Machine/Ports.lean ====
section
/-! DEFINITION. Ports: how the next operation reaches the block.  All operations take effect one at a
time in a single total order (R61); `State.inputs` is what is left of that order (log entry 3). -/

namespace Sys2Proof.Machine

/-- Take the next operation.  Where both ports present one in the same moment the request is first and
the command is left for the next step (R61 (e), R176); where nothing is presented the step is idle
(R80, R150).  An observed match function is fetched from the config byte of its entry (log entry 5). -/
def fetch (s : State) : Fetched × State :=
  match s.inputs with
  | [] => (.idle, s)
  | .reset :: rest => (.reset, { s with inputs := rest })
  | .ports none none :: rest => (.idle, { s with inputs := rest })
  | .ports (some k) none :: rest => (.run (decodeK k), { s with inputs := rest })
  | .ports none (some c) :: rest => (.run (decodeC c), { s with inputs := rest })
  | .ports (some k) (some c) :: rest =>
    (.run (decodeK k), { s with inputs := .ports none (some c) :: rest })
  | .matcher i a :: rest =>
    (.run (decodeG s.active.cfg[i]), { s with inputs := rest, probe := { entry := i, addr := a } })

/-- A reset step (R190): the tables are written, nothing is on the outputs. -/
def resetStep (s : State) : State := s.resetTables.idle

/-- Present a word next (log entry 7): a request on the check port, a command on the configuration
port, and a config byte in the config register of the probed entry, whose match function is then
observed. -/
def presentWord (s : State) (nbits w : Nat) : State :=
  match formatOfBits nbits with
  | .k => { s with inputs := .ports (some (BitVec.ofNat 36 w)) none :: s.inputs }
  | .c => { s with inputs := .ports none (some (BitVec.ofNat 42 w)) :: s.inputs }
  | .g =>
    { s with
      active := { s.active with cfg := s.active.cfg.set s.probe.entry (BitVec.ofNat 8 w) }
      inputs := .matcher s.probe.entry s.probe.addr :: s.inputs }

end Sys2Proof.Machine
end

