-- ==== Sys2Proof/Machine/Step.lean ====
section
/-! DEFINITION. Step: one operation of the total order of R61.  Every operation is one indivisible step
(R57), and so is reset (R190). -/

namespace Sys2Proof.Machine

/-- One step: take the next operation, and run it. -/
def step (s : State) : Host.Outcome State Fault Refusal :=
  match fetch s with
  | (.idle, s') => .next s'.idle
  | (.reset, s') => .next (resetStep s')
  | (.run i, s') => exec i s'

/-- The state whose next step runs the instruction with the given bits (log entry 7). -/
def State.withFetchWord (s : State) (nbits w : Nat) : State := presentWord s nbits w

end Sys2Proof.Machine
end

