-- ==== Sys2Proof/Safety.lean ====
section
/-! DEFINITION. Safety: the terms claims are stated in.

The first part says in plain natural-number arithmetic when an entry matches and when a request is
granted, from the reference function of 00_scope.md rule R16, without a name of the matcher or of the
resolver; claims compare the machine with it.  The second part names inputs, sequences and runs. -/

namespace Sys2Proof.Safety

open Sys2Proof.Machine

/-! ### Granting, in natural numbers -/

/-- `c[4:3]` (R8, R16). -/
def modeCode (c : CfgByte) : Nat := c.toNat / 8 % 4

/-- The bit number of an operation's flag (R76, R112). -/
def flagNumber : Op → Nat
  | .read => 0
  | .write => 1
  | .execute => 2

/-- `c[op] == 1` (R16). -/
def HasFlag (c : CfgByte) (op : Op) : Prop := c.toNat / 2 ^ flagNumber op % 2 = 1

/-- `prev(T, i)` (R16). -/
def prevBoundary (t : Table) (i : Fin 64) : Nat :=
  if i.val = 0 then 0 else (t.addr[i.val - 1]).toNat

/-- `size = 1 << ((boundary & 0xFFFFFFFC) + 2)` (R108). -/
def napotSize (b : Nat) : Nat := 2 ^ ((b &&& 0xFFFFFFFC) + 2)

/-- `x & ~(size - 1)` for a power of two `size` (R108): `x` with its low bits cleared. -/
def alignDown (size x : Nat) : Nat := x - x % size

/-- `match(T, i, a)` (R16), with MATCH.NAPOT in the source's literal form (R108). -/
def Matches (t : Table) (i : Fin 64) (a : Word) : Prop :=
  (modeCode t.cfg[i] = 1 ∧ prevBoundary t i ≤ a.toNat ∧ a.toNat < t.addr[i].toNat) ∨
  (modeCode t.cfg[i] = 2 ∧ t.addr[i].toNat ≤ a.toNat ∧ a.toNat < t.addr[i].toNat + 4) ∨
  (modeCode t.cfg[i] = 3 ∧
    alignDown (napotSize t.addr[i].toNat) a.toNat =
      alignDown (napotSize t.addr[i].toNat) t.addr[i].toNat)

/-- `i` is the least matching entry (R16, R134). -/
def FirstMatch (t : Table) (i : Fin 64) (a : Word) : Prop :=
  Matches t i a ∧ ∀ j : Fin 64, j.val < i.val → ¬ Matches t j a

/-- The policy allows the access: the least matching entry has the operation's flag (R16). -/
def Grants (t : Table) (a : Word) (op : Op) : Prop :=
  ∃ i : Fin 64, FirstMatch t i a ∧ HasFlag t.cfg[i] op

/-- Every entry is in mode OFF (R145 (a)). -/
def AllOff (t : Table) : Prop := ∀ i : Fin 64, modeCode t.cfg[i] = 0

/-! ### Requests and codes -/

/-- The request for an operation (R76). -/
def request : Op → Priv → Word → Instr
  | .read, p, a => .checkR p a
  | .write, p, a => .checkW p a
  | .execute, p, a => .checkX p a

/-- The code of a privilege level (R77). -/
def privCode : Priv → Nat
  | .user => 0
  | .supervisor => 1
  | .reserved => 2
  | .machine => 3

/-- The index of a register (R27). -/
def regIndex : Reg → Nat
  | .cfg i => i.val
  | .addr i => 64 + i.val

/-! ### Inputs, sequences and runs -/

/-- The input is, or holds, a COMMIT (R82: `cmd = 4`). -/
def HasCommit : Input → Prop
  | .reset => False
  | .ports _ (some c) => c.toNat % 8 = 4
  | .ports _ none => False
  | .matcher _ _ => False

/-- The input is, or holds, a WR that stages a config byte whose mode is not OFF (R152): `cmd = 1`,
`idx < 64`, and bits 4:3 of `wdata` not 0. -/
def StagesMode : Input → Prop
  | .reset => False
  | .ports _ (some c) =>
    c.toNat % 8 = 1 ∧ c.toNat / 8 % 128 < 64 ∧ c.toNat / 1024 / 8 % 4 ≠ 0
  | .ports _ none => False
  | .matcher _ _ => False

/-- The block is closed and nothing pending can open it: all entries of both tables are OFF and no
pending command stages another mode (R191). -/
def Closed (s : State) : Prop :=
  AllOff s.active ∧ AllOff s.staging ∧ ∀ x ∈ s.inputs, ¬ StagesMode x

/-- Nothing allows an access and nothing pending can change that: every entry of the active table is OFF
and no COMMIT is pending (R145 (a), R191). -/
def Denying (s : State) : Prop :=
  AllOff s.active ∧ ∀ x ∈ s.inputs, ¬ HasCommit x

/-- Two states that are equal but for the staging table and the recorded outputs, with no COMMIT
pending (R63, R199).  `rdata` may differ, since an RDS shows what is staged. -/
def EqualButForStaged (s s' : State) : Prop :=
  s'.active = s.active ∧ s'.inputs = s.inputs ∧ s'.probe = s.probe ∧
    ∀ x ∈ s.inputs, ¬ HasCommit x

/-- The command `WR n, v` of R160, by its number (R81). -/
def writeInput (n v : Nat) : Input :=
  .ports none (some (BitVec.ofNat 42 (v % 2 ^ 32 * 1024 + n * 8 + 1)))

/-- The command COMMIT (R90). -/
def commitInput : Input := .ports none (some 4)

/-- The loading of a table of numbers, in the given order of its indices (R160). -/
def loadInputs (e : Nat → Nat) (order : List Nat) : List Input :=
  order.map (fun n => writeInput n (e n)) ++ [commitInput]

/-- A sequence of operations, one after another (R61). -/
def execAll : List Instr → State → Host.Outcome State Fault Refusal
  | [], s => .next s
  | i :: is, s =>
    match exec i s with
    | .next t => execAll is t
    | .fault r => .fault r
    | .refused r => .refused r

/-- No WR of the sequence is to the register. -/
def NoWriteTo (r : Reg) (is : List Instr) : Prop := ∀ v, Instr.wr r v ∉ is

/-- No operation of the sequence is a COMMIT. -/
def NoCommit (is : List Instr) : Prop := ∀ x v, Instr.commit x v ∉ is

/-- A register's stored value after a WR of `v` to it, as RDS reads it back (R84, R85). -/
def storedValue : Reg → Word → Nat
  | .cfg _, v => v.toNat % 2 ^ 8
  | .addr _, v => v.toNat

/-- A run is safe if it never stops: with no trap and no error in the block, that is all a run can do
wrong (R142, R170). -/
def SafeRun (n : Nat) (s : State) : Prop := ∃ t, Host.Core.run core n s = .next t

end Sys2Proof.Safety
end

