-- ==== Sys2Proof/Certificates/Slice0/Obligations.lean ====
section
/-! DEFINITION. Obligations: the statements for the provers.  What each says of the model's own fields
(`inputs`, `probe`, `decision`, `rdata`, `matched`) rests on log entries 3 to 6, 14 and 16. -/

section
open Sys2Proof Sys2Proof.Machine Sys2Proof.Safety

/-! ### Encodings -/

/-- Decoding the word of an instruction gives the instruction, with every operand at every value. -/
def Obligations.DecodeEncodeRoundTrip : Prop :=
  ∀ i : Instr, decodeWord (encode i) = i

/-- Encoding what a word decodes to gives the word: no bit of a word is dropped, and every word of
every format has exactly one meaning. -/
def Obligations.EncodeDecodeRoundTrip : Prop :=
  ∀ w : FormatWord, encode (decodeWord w) = w

/-- Words written out in 95_test_vectors.md section 3, and the config bytes of 30_encoding.md. -/
def Obligations.WordsOfTheSpecDecode : Prop :=
  decodeWord (.k 0x000020010) = .checkR .user 0x2001 ∧
  decodeWord (.k 0x000020011) = .checkW .user 0x2001 ∧
  decodeWord (.k 0x00000FFCE) = .checkX .machine 0x0FFC ∧
  decodeWord (.k 0x000010003) = .reservedOp3 .user 0x1000 ∧
  decodeWord (.c 0x00000004401) = .wr (.cfg 0) 0x11 ∧
  decodeWord (.c 0x00000800201) = .wr (.addr 0) 0x2000 ∧
  decodeWord (.c 0x000000003FA) = .rds (.addr 63) 0 ∧
  decodeWord (.c 0x00000000003) = .rda (.cfg 0) 0 ∧
  decodeWord (.c 0x00000000004) = .commit 0 0 ∧
  decodeWord (.c 0x0000002AC2D) = .reservedCmd5 5 0xAB ∧
  decodeWord (.g 0x11) = .matchNa4 { unused := 0, x := false, w := false, r := true } ∧
  decodeWord (.g 0x08) = .matchTor { unused := 0, x := false, w := false, r := false }

/-- The request word with fields `addr`, `priv`, `op`, written as a number, decodes to the request. -/
def Obligations.RequestWordFields : Prop :=
  ∀ (p : Priv) (a : Word),
    decodeK (BitVec.ofNat 36 (a.toNat * 2 ^ 4 + privCode p * 2 ^ 2 + 0)) = .checkR p a ∧
    decodeK (BitVec.ofNat 36 (a.toNat * 2 ^ 4 + privCode p * 2 ^ 2 + 1)) = .checkW p a ∧
    decodeK (BitVec.ofNat 36 (a.toNat * 2 ^ 4 + privCode p * 2 ^ 2 + 2)) = .checkX p a ∧
    decodeK (BitVec.ofNat 36 (a.toNat * 2 ^ 4 + privCode p * 2 ^ 2 + 3)) = .reservedOp3 p a

/-- The command word with fields `wdata`, `idx`, `cmd`, written as a number, decodes to the command;
an index below 64 is a config register, one from 64 to 127 a boundary register. -/
def Obligations.CommandWordFields : Prop :=
  (∀ (x : Idx) (v : Word),
    decodeC (BitVec.ofNat 42 (v.toNat * 2 ^ 10 + x.toNat * 2 ^ 3 + 0)) = .nop x v ∧
    decodeC (BitVec.ofNat 42 (v.toNat * 2 ^ 10 + x.toNat * 2 ^ 3 + 4)) = .commit x v ∧
    decodeC (BitVec.ofNat 42 (v.toNat * 2 ^ 10 + x.toNat * 2 ^ 3 + 5)) = .reservedCmd5 x v ∧
    decodeC (BitVec.ofNat 42 (v.toNat * 2 ^ 10 + x.toNat * 2 ^ 3 + 6)) = .reservedCmd6 x v ∧
    decodeC (BitVec.ofNat 42 (v.toNat * 2 ^ 10 + x.toNat * 2 ^ 3 + 7)) = .reservedCmd7 x v) ∧
  (∀ (r : Reg) (v : Word),
    decodeC (BitVec.ofNat 42 (v.toNat * 2 ^ 10 + regIndex r * 2 ^ 3 + 1)) = .wr r v ∧
    decodeC (BitVec.ofNat 42 (v.toNat * 2 ^ 10 + regIndex r * 2 ^ 3 + 2)) = .rds r v ∧
    decodeC (BitVec.ofNat 42 (v.toNat * 2 ^ 10 + regIndex r * 2 ^ 3 + 3)) = .rda r v)

/-- DECODE of a config byte: the mode from bits 4:3, the flags from bits 0, 1 and 2, and nothing from
bits 7:5. -/
def Obligations.ConfigByteDecode : Prop :=
  ∀ c : CfgByte,
    ((decodeRegion c).mode = .off ↔ modeCode c = 0) ∧
    ((decodeRegion c).mode = .tor ↔ modeCode c = 1) ∧
    ((decodeRegion c).mode = .na4 ↔ modeCode c = 2) ∧
    ((decodeRegion c).mode = .napot ↔ modeCode c = 3) ∧
    ((decodeRegion c).canRead = true ↔ c.toNat % 2 = 1) ∧
    ((decodeRegion c).canWrite = true ↔ c.toNat / 2 % 2 = 1) ∧
    ((decodeRegion c).canExecute = true ↔ c.toNat / 4 % 2 = 1) ∧
    decodeRegion c = decodeRegion (c &&& 0x1F)

/-- The bytes of an instruction's word, as the model lays them out (log entry 8), decode to it; bytes
are rejected exactly where their number is not the format's or a bit above the format's width is
set. -/
def Obligations.BytesDecodeOrAreRejected : Prop :=
  (∀ i : Instr, decode (encode i).format (encode i).layout = .ok i) ∧
  (∀ (f : Format) (bs : List Byte),
    (decode f bs = .error .wrongLength ↔ bs.length ≠ f.bytes) ∧
    (decode f bs = .error .paddingSet ↔ bs.length = f.bytes ∧ 2 ^ f.bits ≤ ofBytes bs))

/-! ### Steps -/

/-- A step runs the instruction that the word presented to it decodes to: a request word, a command
word, or the config byte of the probed entry (log entries 3 and 5). -/
def Obligations.StepRunsDecodedWord : Prop :=
  ∀ (s : State) (rest : List Input),
    (∀ k, s.inputs = .ports (some k) none :: rest →
      step s = exec (decodeK k) { s with inputs := rest }) ∧
    (∀ c, s.inputs = .ports none (some c) :: rest →
      step s = exec (decodeC c) { s with inputs := rest }) ∧
    (∀ k c, s.inputs = .ports (some k) (some c) :: rest →
      step s = exec (decodeK k) { s with inputs := .ports none (some c) :: rest }) ∧
    (∀ i a, s.inputs = .matcher i a :: rest →
      step s = exec (decodeG s.active.cfg[i])
        { s with inputs := rest, probe := { entry := i, addr := a } })

/-- A step with nothing presented changes no table and shows `rdata = 0`. -/
def Obligations.IdleStepChangesNothing : Prop :=
  ∀ (s : State) (rest : List Input),
    (s.inputs = [] → ∃ t, step s = .next t ∧ t.active = s.active ∧ t.staging = s.staging ∧
      t.inputs = [] ∧ t.rdata = 0) ∧
    (s.inputs = .ports none none :: rest → ∃ t, step s = .next t ∧ t.active = s.active ∧
      t.staging = s.staging ∧ t.inputs = rest ∧ t.rdata = 0)

/-- A request and a command presented in the same moment: the request is first, and is judged against
the table as it was, even where the command is a COMMIT; the command takes effect next. -/
def Obligations.SameStepRequestIsFirst : Prop :=
  ∀ (s : State) (k : KWord) (c : CWord) (rest : List Input),
    s.inputs = .ports (some k) (some c) :: rest →
    ∃ t u, step s = .next t ∧ step t = .next u ∧
      t.decision.map Decision.bit = some (checkPort s.active k) ∧
      t.active = s.active ∧ t.staging = s.staging ∧
      exec (decodeC c) { t with inputs := rest } = .next u ∧
      u.inputs = rest ∧
      (c.toNat % 8 = 4 → u.active = s.staging)

/-- A reset step writes zero to every register of both tables and has no other effect.  The zeros are the
spec's own decision D9 (R34, log entry 10).  That reset is an input, that what is pending behind it stays
pending, and the probe, are the model's choice (log entries 17, 3 and 5). -/
def Obligations.ResetStepClearsBothTables : Prop :=
  ∀ (s : State) (rest : List Input), s.inputs = .reset :: rest →
    ∃ t, step s = .next t ∧
      (∀ r : Reg, t.active.readReg r = 0 ∧ t.staging.readReg r = 0) ∧
      (∀ i : Fin 64, t.active.cfg[i] = 0 ∧ t.active.addr[i] = 0 ∧
        t.staging.cfg[i] = 0 ∧ t.staging.addr[i] = 0) ∧
      t.inputs = rest ∧ t.probe = s.probe

/-- The reset state: every register of both tables is zero. -/
def Obligations.ResetStateIsZero : Prop :=
  ∀ i : Fin 64,
    State.reset.active.cfg[i] = 0 ∧ State.reset.active.addr[i] = 0 ∧
    State.reset.staging.cfg[i] = 0 ∧ State.reset.staging.addr[i] = 0

/-- Nothing hangs and nothing fails: from every state every run of every length goes on. -/
def Obligations.EveryRunCompletes : Prop :=
  ∀ (n : Nat) (s : State), SafeRun n s

/-! ### The matcher -/

/-- The four MATCH rows complete: each records the match of the probed entry with the probed address
and changes nothing else; all in natural numbers, MATCH.NAPOT in the source's literal form.  That a MATCH row is
observed, and where its result stands, is the model's own choice (log entry 5). -/
def Obligations.MatcherRowsComplete : Prop :=
  ∀ (f : CfgFlags) (s : State),
    exec (.matchOff f) s =
      .next { s with matched := some false, decision := none, rdata := 0 } ∧
    exec (.matchTor f) s =
      .next { s with
        matched := some (decide (prevBoundary s.active s.probe.entry ≤ s.probe.addr.toNat ∧
          s.probe.addr.toNat < s.active.addr[s.probe.entry].toNat))
        decision := none
        rdata := 0 } ∧
    exec (.matchNa4 f) s =
      .next { s with
        matched := some (decide (s.active.addr[s.probe.entry].toNat ≤ s.probe.addr.toNat ∧
          s.probe.addr.toNat < s.active.addr[s.probe.entry].toNat + 4))
        decision := none
        rdata := 0 } ∧
    exec (.matchNapot f) s =
      .next { s with
        matched := some (decide
          (alignDown (napotSize s.active.addr[s.probe.entry].toNat) s.probe.addr.toNat =
            alignDown (napotSize s.active.addr[s.probe.entry].toNat)
              s.active.addr[s.probe.entry].toNat))
        decision := none
        rdata := 0 }

/-- The match functions that the mode bits select, at every width: OFF never; NA4 the four bytes from
the literal boundary, with no wrap; NAPOT the source's formula. -/
def Obligations.MatchFunctionsByMode : Prop :=
  ∀ (w : Nat) (c : CfgByte) (b p a : BitVec w),
    (c &&& 0x18 = 0x00 → matchCfg c b p a = false) ∧
    (c &&& 0x18 = 0x10 →
      (matchCfg c b p a = true ↔ b.toNat ≤ a.toNat ∧ a.toNat < b.toNat + 4)) ∧
    (c &&& 0x18 = 0x18 →
      (matchCfg c b p a = true ↔
        alignDown (napotSize b.toNat) a.toNat = alignDown (napotSize b.toNat) b.toNat))

/-- A TOR entry matches from the raw boundary of the entry before it, whatever that entry's mode (OFF
included), up to its own; entry 0 matches from 0. -/
def Obligations.TorRangeOfEntry : Prop :=
  ∀ (t : Table) (a : Word),
    (t.cfg[0] &&& 0x18 = 0x08 →
      (t.matchAt 0 a = true ↔ a.toNat < t.addr[0].toNat)) ∧
    (∀ (i : Nat) (h : i + 1 < 64), t.cfg[i + 1] &&& 0x18 = 0x08 →
      (t.matchAt ⟨i + 1, h⟩ a = true ↔
        t.addr[i].toNat ≤ a.toNat ∧ a.toNat < t.addr[i + 1].toNat))

/-- The laws of the matcher, at every width. -/
def Obligations.MatcherLaws : Prop :=
  ∀ (w : Nat) (b a : BitVec w),
    (1 ≤ b.toNat → matchTor b 0 (b - 1) = true) ∧
    matchTor b 0 b = false ∧
    (matchNa4 b a = true ↔ a.toNat = b.toNat ∨ a.toNat = b.toNat + 1 ∨ a.toNat = b.toNat + 2 ∨
      a.toNat = b.toNat + 3) ∧
    (matchNapot b a = true ↔
      alignDown (napotSize b.toNat) b.toNat ≤ a.toNat ∧
      a.toNat < alignDown (napotSize b.toNat) b.toNat + napotSize b.toNat) ∧
    matchOff a = false ∧
    (∀ (c c' : CfgByte) (op : Op), (HasFlag c op ↔ HasFlag c' op) → permits c op = permits c' op)

/-- MATCH.NAPOT at `AW = 32`: a boundary of 32 or more matches every address, a smaller one the
addresses below `2^(4 * B[4:2] + 2)`; the low two bits of the boundary never matter. -/
def Obligations.NapotClosedForm : Prop :=
  ∀ (b a : Word),
    (matchNapot b a = true ↔ 32 ≤ b.toNat ∨ a.toNat < 2 ^ (4 * (b.toNat / 4 % 8) + 2)) ∧
    (∀ b' : Word, b'.toNat / 4 = b.toNat / 4 → matchNapot b' a = matchNapot b a)

/-- MATCH.NAPOT at other widths: up to 32 bits the block starts at address 0; above 32 bits the literal
mask drops the high bits of the boundary from the exponent and the block can start elsewhere. -/
def Obligations.NapotAtOtherWidths : Prop :=
  (∀ (w : Nat) (b a : BitVec w), w ≤ 32 →
    (matchNapot b a = true ↔ a.toNat < napotSize b.toNat)) ∧
  (∀ (w : Nat) (b a : BitVec w), 32 < w → b.toNat = 2 ^ 32 →
    (matchNapot b a = true ↔ 2 ^ 32 ≤ a.toNat ∧ a.toNat ≤ 2 ^ 32 + 3))

/-- Which boundaries cover the top address `2^AW - 1`: none in TOR mode, those of `2^AW - 4` or above in
NA4 mode, those of 32 or more in NAPOT mode. -/
def Obligations.TopAddressCoverage : Prop :=
  ∀ (b p a : Word), a.toNat = 2 ^ 32 - 1 →
    matchTor b p a = false ∧
    (matchNa4 b a = true ↔ 2 ^ 32 - 4 ≤ b.toNat) ∧
    (matchNapot b a = true ↔ 32 ≤ b.toNat)

/-- PERMITS is the flag of the operation in the config byte. -/
def Obligations.PermitsIsTheFlag : Prop :=
  ∀ (c : CfgByte) (op : Op), permits c op = true ↔ HasFlag c op

/-- The match a step observes on an entry is the match result of that entry in the match vector the
resolver uses; the active table is as it was, and the entry's config byte is what was run (log
entry 5). -/
def Obligations.ObservedMatchIsTheVectors : Prop :=
  ∀ (s : State) (i : Fin 64) (a : Word) (rest : List Input), s.inputs = .matcher i a :: rest →
    ∃ t, step s = .next t ∧ (t.matched = some true ↔ Matches s.active i a) ∧
      (t.matched = some false ↔ ¬ Matches s.active i a) ∧
      t.active = s.active ∧ t.staging = s.staging ∧ t.inputs = rest

/-! ### The resolver -/

/-- CHECK.R, CHECK.W and CHECK.X complete in every state: the decision is `Allowed` exactly where the
least matching entry of the active table has the operation's flag, and `Fault` otherwise; no table is
written. -/
def Obligations.CheckDecidesByFirstMatch : Prop :=
  ∀ (op : Op) (p : Priv) (a : Word) (s : State),
    ∃ t, exec (request op p a) s = .next t ∧
      (Grants s.active a op → t.decision = some .allowed) ∧
      (¬ Grants s.active a op → t.decision = some .fault) ∧
      t.active = s.active ∧ t.staging = s.staging

/-- The spare operation code is denied whatever the address, the level and the table, and no table is
written. -/
def Obligations.ReservedOperationIsDenied : Prop :=
  ∀ (p : Priv) (a : Word) (s : State),
    ∃ t, exec (.reservedOp3 p a) s = .next t ∧ t.decision = some .fault ∧
      t.active = s.active ∧ t.staging = s.staging

/-- The sequential scan and the parallel evaluation followed by a find-first give the same decision,
for every table, address and operation. -/
def Obligations.ScanIsPriorityEncoder : Prop :=
  ∀ (t : Table) (a : Word) (op : Op), resolve t a op = resolveByVector t a op

/-- The first match is final: the decision is its flag's, and no later entry has an effect on it. -/
def Obligations.FirstMatchIsFinal : Prop :=
  ∀ (t t' : Table) (i : Fin 64) (a : Word) (op : Op), FirstMatch t i a →
    (∀ j : Fin 64, j.val ≤ i.val → t'.cfg[j] = t.cfg[j] ∧ t'.addr[j] = t.addr[j]) →
    (resolve t a op = .allowed ↔ HasFlag t.cfg[i] op) ∧ resolve t' a op = resolve t a op

/-- Default deny: an address that no entry matches is denied for every operation and level, and with
every entry OFF every request is denied. -/
def Obligations.NoMatchIsDenied : Prop :=
  ∀ (op : Op) (p : Priv) (a : Word) (s : State),
    ((∀ i, ¬ Matches s.active i a) →
      ∃ t, exec (request op p a) s = .next t ∧ t.decision = some .fault) ∧
    (AllOff s.active → ∃ t, exec (request op p a) s = .next t ∧ t.decision = some .fault)

/-- A request is denied in exactly the three cases of the spec: the spare code, no matching entry, or a
first match without the operation's flag. -/
def Obligations.CausesOfFault : Prop :=
  ∀ (k : KWord) (s : State),
    ∃ t, exec (decodeK k) s = .next t ∧
      (t.decision = some .fault ↔
        k.toNat % 4 = 3 ∨
        (k.toNat % 4 ≠ 3 ∧ ∀ i, ¬ Matches s.active i (BitVec.ofNat 32 (k.toNat / 16))) ∨
        (∃ op i, k.toNat % 4 = flagNumber op ∧
          FirstMatch s.active i (BitVec.ofNat 32 (k.toNat / 16)) ∧
          ¬ HasFlag s.active.cfg[i] op)) ∧
      (t.decision ≠ some .fault → t.decision = some .allowed)

/-- The privilege level is not consulted: two request words that differ in bits 3:2 only have the same
outcome in every state. -/
def Obligations.PrivilegeIsNotConsulted : Prop :=
  ∀ (k k' : KWord) (s : State), k.toNat % 4 = k'.toNat % 4 → k.toNat / 16 = k'.toNat / 16 →
    exec (decodeK k) s = exec (decodeK k') s

/-- Bits 7:5 of the config bytes change no decision and block no later write. -/
def Obligations.UnusedConfigBitsMeanNothing : Prop :=
  (∀ (t t' : Table) (a : Word) (op : Op), t'.addr = t.addr →
    (∀ i : Fin 64, t'.cfg[i] &&& 0x1F = t.cfg[i] &&& 0x1F) →
    resolve t' a op = resolve t a op) ∧
  (∀ (t : Table) (i : Fin 64) (v : Word),
    (t.writeReg (.cfg i) v).cfg[i].toNat = v.toNat % 256 ∧
    (t.writeReg (.addr i) v).addr[i] = v)

/-- Changing a boundary register can change the match of its own entry and of the next one only; not of
its own if it is OFF, not of the next if that is not TOR. -/
def Obligations.BoundaryChangeIsLocal : Prop :=
  ∀ (t : Table) (i j : Fin 64) (v a : Word),
    (j.val ≠ i.val → j.val ≠ i.val + 1 →
      (t.writeReg (.addr i) v).matchAt j a = t.matchAt j a) ∧
    (modeCode t.cfg[i] = 0 → (t.writeReg (.addr i) v).matchAt i a = t.matchAt i a) ∧
    (j.val = i.val + 1 → modeCode t.cfg[j] ≠ 1 →
      (t.writeReg (.addr i) v).matchAt j a = t.matchAt j a)

/-- The output of the check port is the decision of the request word's instruction, 0 for `Allowed` and
1 for `Fault`: the clocked view and the combinational view agree. -/
def Obligations.CheckPortAgreesWithRequests : Prop :=
  ∀ (k : KWord) (s : State),
    ∃ t, exec (decodeK k) s = .next t ∧
      (checkPort s.active k = 0 ↔ t.decision = some .allowed) ∧
      (checkPort s.active k = 1 ↔ t.decision = some .fault) ∧
      (t.decision = some .allowed ∨ t.decision = some .fault)

/-- A request reads the active table and nothing else, and writes no table: states with the same active
table give the same decision, whatever was staged, pending or answered before. -/
def Obligations.RequestReadsOnlyActiveTable : Prop :=
  ∀ (k : KWord) (s s' : State), s.active = s'.active →
    ∃ t t', exec (decodeK k) s = .next t ∧ exec (decodeK k) s' = .next t' ∧
      t.decision = t'.decision ∧ t.decision ≠ none ∧
      t.active = s.active ∧ t.staging = s.staging ∧ t'.active = s'.active ∧
      t'.staging = s'.staging

/-! ### The configuration port -/

/-- WR writes exactly one register of the staging table: a config register takes the low 8 bits of
`wdata`, a boundary register all of it; the active table is not written, and `rdata` is 0. -/
def Obligations.WrStagesOneRegister : Prop :=
  ∀ (i : Fin 64) (v : Word) (s : State),
    (∃ t, exec (.wr (.cfg i) v) s = .next t ∧
      t.staging.cfg[i].toNat = v.toNat % 2 ^ 8 ∧
      (∀ j : Fin 64, j ≠ i → t.staging.cfg[j] = s.staging.cfg[j]) ∧
      (∀ j : Fin 64, t.staging.addr[j] = s.staging.addr[j]) ∧
      t.active = s.active ∧ t.rdata = 0) ∧
    (∃ t, exec (.wr (.addr i) v) s = .next t ∧
      t.staging.addr[i] = v ∧
      (∀ j : Fin 64, j ≠ i → t.staging.addr[j] = s.staging.addr[j]) ∧
      (∀ j : Fin 64, t.staging.cfg[j] = s.staging.cfg[j]) ∧
      t.active = s.active ∧ t.rdata = 0)

/-- Writes to different registers commute; of two writes to the same register the later one wins. -/
def Obligations.WritesCommuteAndLaterWins : Prop :=
  ∀ (r r' : Reg) (v v' : Word) (s : State),
    (r ≠ r' → execAll [.wr r v, .wr r' v'] s = execAll [.wr r' v', .wr r v] s) ∧
    execAll [.wr r v, .wr r v'] s = execAll [.wr r v'] s ∧
    ∃ t, execAll [.wr r v, .wr r' v'] s = .next t

/-- RDS shows a register of the staging table and RDA one of the active table, a config register with
zeros above its 8 bits; no table is written. -/
def Obligations.ReadsShowTheRegister : Prop :=
  ∀ (i : Fin 64) (v : Word) (s : State),
    (∃ t, exec (.rds (.cfg i) v) s = .next t ∧ t.rdata.toNat = s.staging.cfg[i].toNat ∧
      t.active = s.active ∧ t.staging = s.staging) ∧
    (∃ t, exec (.rds (.addr i) v) s = .next t ∧ t.rdata = s.staging.addr[i] ∧
      t.active = s.active ∧ t.staging = s.staging) ∧
    (∃ t, exec (.rda (.cfg i) v) s = .next t ∧ t.rdata.toNat = s.active.cfg[i].toNat ∧
      t.active = s.active ∧ t.staging = s.staging) ∧
    (∃ t, exec (.rda (.addr i) v) s = .next t ∧ t.rdata = s.active.addr[i] ∧
      t.active = s.active ∧ t.staging = s.staging)

/-- COMMIT copies every register of the staging table to the active table, leaves the staging table as
it is, and shows `rdata = 0`. -/
def Obligations.CommitPublishesEveryRegister : Prop :=
  ∀ (x : Idx) (v : Word) (s : State),
    ∃ t, exec (.commit x v) s = .next t ∧
      (∀ i : Fin 64, t.active.cfg[i] = s.staging.cfg[i] ∧ t.active.addr[i] = s.staging.addr[i]) ∧
      t.staging = s.staging ∧ t.rdata = 0

/-- NOP and the three reserved commands change no table and show `rdata = 0`, and a reserved command
does exactly what NOP does. -/
def Obligations.NopAndReservedCommandsDoNothing : Prop :=
  ∀ (x : Idx) (v : Word) (s : State),
    (∃ t, exec (.nop x v) s = .next t ∧ t.active = s.active ∧ t.staging = s.staging ∧
      t.rdata = 0) ∧
    (∃ t, exec (.reservedCmd5 x v) s = .next t ∧ t.active = s.active ∧ t.staging = s.staging ∧
      t.rdata = 0) ∧
    (∃ t, exec (.reservedCmd6 x v) s = .next t ∧ t.active = s.active ∧ t.staging = s.staging ∧
      t.rdata = 0) ∧
    (∃ t, exec (.reservedCmd7 x v) s = .next t ∧ t.active = s.active ∧ t.staging = s.staging ∧
      t.rdata = 0) ∧
    exec (.reservedCmd5 x v) s = exec (.nop x v) s ∧
    exec (.reservedCmd6 x v) s = exec (.nop x v) s ∧
    exec (.reservedCmd7 x v) s = exec (.nop x v) s

/-- A field that a command does not read has no effect: two command words with the same `cmd` that
reads no field, or with the same `cmd` that reads `idx` and the same `idx`, have the same outcome. -/
def Obligations.UnreadFieldsHaveNoEffect : Prop :=
  ∀ (c c' : CWord) (s : State), c.toNat % 8 = c'.toNat % 8 →
    (c.toNat % 8 = 0 ∨ 4 ≤ c.toNat % 8 → exec (decodeC c) s = exec (decodeC c') s) ∧
    (c.toNat % 8 = 2 ∨ c.toNat % 8 = 3 → c.toNat / 8 % 128 = c'.toNat / 8 % 128 →
      exec (decodeC c) s = exec (decodeC c') s)

/-! ### The two tables over sequences and runs -/

/-- What a step can do to the tables.  The active table changes by reset and by COMMIT only, and then
whole; the staging table by reset and by WR only, and by WR in one register. -/
def Obligations.TablesChangeOnlyAsStated : Prop :=
  ∀ (s t : State), step s = .next t →
    (t.active = s.active ∨
      (∃ rest, s.inputs = .reset :: rest ∧ t.active = Table.zero) ∨
      (∃ c rest, s.inputs = .ports none (some c) :: rest ∧ c.toNat % 8 = 4 ∧
        t.active = s.staging)) ∧
    (t.staging = s.staging ∨
      (∃ rest, s.inputs = .reset :: rest ∧ t.staging = Table.zero) ∨
      (∃ c rest r v, s.inputs = .ports none (some c) :: rest ∧ decodeC c = .wr r v ∧
        t.staging = s.staging.writeReg r v))

/-- An RDS shows the value of the latest WR to its register; an RDA shows the value its register had in
the staging table at the latest COMMIT; a request after a COMMIT and before the next one is judged
against the table that COMMIT published.  The clauses on RDS and RDA take R154 and R155 against the last
clause of R191 (log entry 9). -/
def Obligations.LatestWriteAndLatestCommitAreSeen : Prop :=
  (∀ (pre post : List Instr) (r : Reg) (v x : Word) (s : State), NoWriteTo r post →
    ∃ t, execAll (pre ++ [.wr r v] ++ post ++ [.rds r x]) s = .next t ∧
      t.rdata.toNat = storedValue r v) ∧
  (∀ (pre post : List Instr) (i : Idx) (w : Word) (r : Reg) (x : Word) (s : State), NoCommit post →
    ∃ u t, execAll pre s = .next u ∧
      execAll (pre ++ [.commit i w] ++ post ++ [.rda r x]) s = .next t ∧
      t.rdata = u.staging.readReg r) ∧
  (∀ (pre post : List Instr) (i : Idx) (w : Word) (op : Op) (p : Priv) (a : Word) (s : State),
    NoCommit post →
    ∃ u t, execAll pre s = .next u ∧
      execAll (pre ++ [.commit i w] ++ post ++ [request op p a]) s = .next t ∧
      (t.decision = some .allowed ↔ Grants u.staging a op))

/-- What is staged is not seen by requests: two machines that differ in the staging table only, with no
COMMIT pending, give the same decisions in runs of every length. -/
def Obligations.StagedIsNotActive : Prop :=
  ∀ (n : Nat) (s : State) (other : Table), (∀ x ∈ s.inputs, ¬ HasCommit x) →
    ∃ t t', Host.Core.run core n s = .next t ∧
      Host.Core.run core n { s with staging := other } = .next t' ∧
      t.decision = t'.decision ∧ t.active = t'.active ∧ t.inputs = t'.inputs

/-- The step behind it: two states that are equal but for what is staged, with no COMMIT pending, step to
two such states, with the same decision and the same observed match.  Inputs, probe and records are the
model's choice (log entries 3, 4 and 5). -/
def Obligations.StagedIsNotActiveStep : Prop :=
  ∀ s s' : State, EqualButForStaged s s' →
    ∃ t t', step s = .next t ∧ step s' = .next t' ∧ EqualButForStaged t t' ∧
      t.decision = t'.decision ∧ t.matched = t'.matched

/-- Loading a table of 128 numbers: the WRs in any order that has every index, then COMMIT, leave the
active table with the low bits of every number; what was pending after them is still pending. -/
def Obligations.LoadingATable : Prop :=
  ∀ (e : Nat → Nat) (order : List Nat) (rest : List Input) (s : State),
    (∀ n, n ∈ order ↔ n < 128) → s.inputs = loadInputs e order ++ rest →
    ∃ t : State, Host.Core.run core (order.length + 1) s = .next t ∧ t.inputs = rest ∧
      ∀ i : Fin 64, (t.active.cfg[i]).toNat = e i.val % 2 ^ 8 ∧
        (t.active.addr[i]).toNat = e (64 + i.val) % 2 ^ 32

/-- A closed block stays closed: all entries of both tables OFF and no pending command that stages
another mode is kept by every step. -/
def Obligations.ClosedIsKept : Prop :=
  ∀ s t : State, Closed s → step s = .next t → Closed t

/-- The reset state is closed, with any inputs pending that stage no mode. -/
def Obligations.ClosedAtReset : Prop :=
  ∀ ins : List Input, (∀ x ∈ ins, ¬ StagesMode x) → Closed { State.reset with inputs := ins }

/-- From reset, with no COMMIT presented, every request in every run is denied, whatever is staged.
This rests on the spec's own reset value (decision D9). -/
def Obligations.DeniedUntilFirstCommit : Prop :=
  ∀ (n : Nat) (ins : List Input), (∀ x ∈ ins, ¬ HasCommit x) →
    ∃ t, Host.Core.run core n { State.reset with inputs := ins } = .next t ∧
      t.decision ≠ some .allowed

/-- The step behind it, from every state and not from reset only: with every active entry OFF and no
COMMIT pending, a step leaves that so, whatever is staged, does not answer `Allowed`, and answers `Fault`
where it judges a request. -/
def Obligations.DenyingIsKept : Prop :=
  ∀ s t : State, Denying s → step s = .next t →
    Denying t ∧ t.decision ≠ some .allowed ∧
      (∀ k c rest, s.inputs = .ports (some k) c :: rest → t.decision = some .fault)

/-- The reset state denies, with any inputs pending that hold no COMMIT.  This rests on the spec's own
reset value (decision D9, log entry 10). -/
def Obligations.DenyingAtReset : Prop :=
  ∀ ins : List Input, (∀ x ∈ ins, ¬ HasCommit x) → Denying { State.reset with inputs := ins }

/-- The recorded outputs are no state of the block: a step is the same whatever they hold. -/
def Obligations.OutputsAreNotRead : Prop :=
  ∀ (s : State) (d : Option Decision) (v : Word) (m : Option Bool),
    step { s with decision := d, rdata := v, matched := m } = step s

/-- What every operation does to the model's own fields: it leaves the pending inputs and the probe; it
records a decision exactly if it is on the check port, `rdata` other than 0 only if it is RDS or RDA,
and a match exactly if it is a MATCH row.  The record is the model's choice (log entries 4, 5, 14). -/
def Obligations.FrameOfModelFields : Prop :=
  ∀ (i : Instr) (s : State), ∃ t, exec i s = .next t ∧
    t.inputs = s.inputs ∧ t.probe = s.probe ∧
    (t.decision ≠ none ↔ ∃ k, encode i = .k k) ∧
    (t.matched ≠ none ↔ ∃ g, encode i = .g g) ∧
    (t.rdata ≠ 0 → ∃ r v, i = .rds r v ∨ i = .rda r v)

end
end

