-- ==== Sys2Proof/Laws/Encode.lean ====
section
/-! SUPPORT. Laws of the encodings: a word's number from its fields. -/

namespace Sys2Proof

open Sys2Proof.Safety

theorem encodePriv_toNat (p : Priv) : (encodePriv p).toNat = privCode p := by
  cases p <;> rfl

theorem encodeReg_toNat (r : Reg) : (encodeReg r).toNat = regIndex r := by
  cases r <;> simp [encodeReg, regIndex] <;> omega

/-- A request word as the number R75 writes. -/
theorem encodeK_toNat (a : Word) (p : Priv) (op : BitVec 2) :
    (encodeK a p op).toNat = a.toNat * 2 ^ 4 + privCode p * 2 ^ 2 + op.toNat := by
  have h1 := (encodePriv p).isLt
  have h2 := op.isLt
  rw [encodeK, FormatWord.toNat, BitVec.toNat_append, BitVec.toNat_append,
    ← Nat.shiftLeft_add_eq_or_of_lt (by omega), ← Nat.shiftLeft_add_eq_or_of_lt (by omega),
    encodePriv_toNat]
  simp only [Nat.shiftLeft_eq]
  omega

/-- A command word as the number R81 writes. -/
theorem encodeC_toNat (v : Word) (x : Idx) (cmd : BitVec 3) :
    (encodeC v x cmd).toNat = v.toNat * 2 ^ 10 + x.toNat * 2 ^ 3 + cmd.toNat := by
  have h1 := x.isLt
  have h2 := cmd.isLt
  rw [encodeC, FormatWord.toNat, BitVec.toNat_append, BitVec.toNat_append,
    ← Nat.shiftLeft_add_eq_or_of_lt (by omega), ← Nat.shiftLeft_add_eq_or_of_lt (by omega)]
  simp only [Nat.shiftLeft_eq]
  omega

/-- An index and its register determine each other. -/
theorem decodeReg_encodeReg (r : Reg) : decodeReg (encodeReg r) = r := by
  have hc : ∀ i : Fin 64, decodeReg (encodeReg (.cfg i)) = .cfg i := by decide
  have ha : ∀ i : Fin 64, decodeReg (encodeReg (.addr i)) = .addr i := by decide
  cases r with
  | cfg i => exact hc i
  | addr i => exact ha i

theorem encodeReg_decodeReg (x : Idx) : encodeReg (decodeReg x) = x := by
  revert x
  decide

end Sys2Proof
end

