-- ==== Sys2Proof/Laws/State.lean ====
section
/-! SUPPORT. Laws of State: one lemma per field and update, true by rfl. -/

namespace Sys2Proof.Machine

section
variable (s : State) (d : Decision) (v : Word) (b : Bool) (r : Reg)

@[simp] theorem State.answerCheck_active : (s.answerCheck d).active = s.active := rfl
@[simp] theorem State.answerCheck_staging : (s.answerCheck d).staging = s.staging := rfl
@[simp] theorem State.answerCheck_inputs : (s.answerCheck d).inputs = s.inputs := rfl
@[simp] theorem State.answerCheck_probe : (s.answerCheck d).probe = s.probe := rfl
@[simp] theorem State.answerCheck_decision : (s.answerCheck d).decision = some d := rfl
@[simp] theorem State.answerCheck_rdata : (s.answerCheck d).rdata = 0 := rfl
@[simp] theorem State.answerCheck_matched : (s.answerCheck d).matched = none := rfl

@[simp] theorem State.answerConfig_active : (s.answerConfig v).active = s.active := rfl
@[simp] theorem State.answerConfig_staging : (s.answerConfig v).staging = s.staging := rfl
@[simp] theorem State.answerConfig_inputs : (s.answerConfig v).inputs = s.inputs := rfl
@[simp] theorem State.answerConfig_probe : (s.answerConfig v).probe = s.probe := rfl
@[simp] theorem State.answerConfig_decision : (s.answerConfig v).decision = none := rfl
@[simp] theorem State.answerConfig_rdata : (s.answerConfig v).rdata = v := rfl
@[simp] theorem State.answerConfig_matched : (s.answerConfig v).matched = none := rfl

@[simp] theorem State.answerMatch_active : (s.answerMatch b).active = s.active := rfl
@[simp] theorem State.answerMatch_staging : (s.answerMatch b).staging = s.staging := rfl
@[simp] theorem State.answerMatch_inputs : (s.answerMatch b).inputs = s.inputs := rfl
@[simp] theorem State.answerMatch_probe : (s.answerMatch b).probe = s.probe := rfl
@[simp] theorem State.answerMatch_decision : (s.answerMatch b).decision = none := rfl
@[simp] theorem State.answerMatch_rdata : (s.answerMatch b).rdata = 0 := rfl
@[simp] theorem State.answerMatch_matched : (s.answerMatch b).matched = some b := rfl

@[simp] theorem State.idle_active : s.idle.active = s.active := rfl
@[simp] theorem State.idle_staging : s.idle.staging = s.staging := rfl
@[simp] theorem State.idle_inputs : s.idle.inputs = s.inputs := rfl
@[simp] theorem State.idle_probe : s.idle.probe = s.probe := rfl
@[simp] theorem State.idle_decision : s.idle.decision = none := rfl
@[simp] theorem State.idle_rdata : s.idle.rdata = 0 := rfl
@[simp] theorem State.idle_matched : s.idle.matched = none := rfl

@[simp] theorem State.stage_active : (s.stage r v).active = s.active := rfl
@[simp] theorem State.stage_staging : (s.stage r v).staging = s.staging.writeReg r v := rfl
@[simp] theorem State.stage_inputs : (s.stage r v).inputs = s.inputs := rfl
@[simp] theorem State.stage_probe : (s.stage r v).probe = s.probe := rfl

@[simp] theorem State.publish_active : s.publish.active = s.staging := rfl
@[simp] theorem State.publish_staging : s.publish.staging = s.staging := rfl
@[simp] theorem State.publish_inputs : s.publish.inputs = s.inputs := rfl
@[simp] theorem State.publish_probe : s.publish.probe = s.probe := rfl

@[simp] theorem State.resetTables_active : s.resetTables.active = Table.zero := rfl
@[simp] theorem State.resetTables_staging : s.resetTables.staging = Table.zero := rfl
@[simp] theorem State.resetTables_inputs : s.resetTables.inputs = s.inputs := rfl
@[simp] theorem State.resetTables_probe : s.resetTables.probe = s.probe := rfl

@[simp] theorem resetStep_active : (resetStep s).active = Table.zero := rfl
@[simp] theorem resetStep_staging : (resetStep s).staging = Table.zero := rfl
@[simp] theorem resetStep_inputs : (resetStep s).inputs = s.inputs := rfl
@[simp] theorem resetStep_probe : (resetStep s).probe = s.probe := rfl
@[simp] theorem resetStep_decision : (resetStep s).decision = none := rfl

end

end Sys2Proof.Machine
end

