-- ==== Sys2Proof/Laws/Ops.lean ====
section
/-! SUPPORT. Laws of the table operations: what a register reads after a write, and what a write leaves
alone. -/

namespace Sys2Proof.Machine

@[simp] theorem Table.zero_cfg (i : Nat) (h : i < 64) : Table.zero.cfg[i] = 0 := by
  simp [Table.zero]

@[simp] theorem Table.zero_addr (i : Nat) (h : i < 64) : Table.zero.addr[i] = 0 := by
  simp [Table.zero]

@[simp] theorem Table.zero_readReg (r : Reg) : Table.zero.readReg r = 0 := by
  cases r <;> simp [Table.readReg]

@[simp] theorem Table.writeReg_cfg_addr (t : Table) (i : Fin 64) (v : Word) :
    (t.writeReg (.cfg i) v).addr = t.addr := rfl

@[simp] theorem Table.writeReg_addr_cfg (t : Table) (i : Fin 64) (v : Word) :
    (t.writeReg (.addr i) v).cfg = t.cfg := rfl

theorem Table.writeReg_cfg_get (t : Table) (i j : Fin 64) (v : Word) :
    (t.writeReg (.cfg i) v).cfg[j] = if i = j then v.setWidth 8 else t.cfg[j] := by
  simp [Table.writeReg, Vector.getElem_set, Fin.ext_iff]

theorem Table.writeReg_addr_get (t : Table) (i j : Fin 64) (v : Word) :
    (t.writeReg (.addr i) v).addr[j] = if i = j then v else t.addr[j] := by
  simp [Table.writeReg, Vector.getElem_set, Fin.ext_iff]

/-- A register read after a write to it gives the bits that it stores. -/
theorem Table.readReg_writeReg_same (t : Table) (r : Reg) (v : Word) :
    (t.writeReg r v).readReg r =
      match r with
      | .cfg _ => (v.setWidth 8).setWidth 32
      | .addr _ => v := by
  cases r <;> simp [Table.readReg, Table.writeReg]

/-- A write leaves every other register alone. -/
theorem Table.readReg_writeReg_other (t : Table) (r r' : Reg) (v : Word) (h : r ≠ r') :
    (t.writeReg r v).readReg r' = t.readReg r' := by
  cases r with
  | cfg i =>
    cases r' with
    | cfg j =>
      have hij : i.val ≠ j.val := fun e => h (by rw [Fin.ext e])
      simp [Table.readReg, Table.writeReg, hij]
    | addr j => rfl
  | addr i =>
    cases r' with
    | cfg j => rfl
    | addr j =>
      have hij : i.val ≠ j.val := fun e => h (by rw [Fin.ext e])
      simp [Table.readReg, Table.writeReg, hij]

/-- Two tables with the same registers are equal. -/
theorem Table.ext_readReg (t t' : Table) (h : ∀ r, t.readReg r = t'.readReg r) : t = t' := by
  obtain ⟨cfgs, addrs⟩ := t
  obtain ⟨cfgs', addrs'⟩ := t'
  have hc : cfgs = cfgs' := by
    ext1 i hi
    have h8 := congrArg BitVec.toNat (h (.cfg ⟨i, hi⟩))
    simp only [Table.readReg, Fin.getElem_fin, BitVec.toNat_setWidth] at h8
    have h1 := (cfgs[i]).isLt
    have h2 := (cfgs'[i]).isLt
    rw [Nat.mod_eq_of_lt (by omega), Nat.mod_eq_of_lt (by omega)] at h8
    exact BitVec.eq_of_toNat_eq h8
  have ha : addrs = addrs' := by
    ext1 i hi
    exact h (.addr ⟨i, hi⟩)
  rw [hc, ha]

end Sys2Proof.Machine
end

