-- ==== Sys2Proof/Laws/Matcher.lean ====
section
/-! SUPPORT. Laws of the matcher: the machine's match functions in the arithmetic of Safety.lean. -/

namespace Sys2Proof.Machine

open Sys2Proof.Safety

theorem napotSize_pos (b : Nat) : 0 < napotSize b := Nat.two_pow_pos _

/-- Clearing the low bits is the same exactly where the high bits are the same. -/
theorem alignDown_eq_iff (size x y : Nat) (h : 0 < size) :
    alignDown size x = alignDown size y ↔ x / size = y / size := by
  have hx := Nat.div_add_mod x size
  have hy := Nat.div_add_mod y size
  unfold alignDown
  constructor
  · intro e
    have e' : size * (x / size) = size * (y / size) := by omega
    exact Nat.eq_of_mul_eq_mul_left h e'
  · intro e
    rw [e] at hx
    omega

/-- MATCH.NAPOT compares what lies above the shift count. -/
theorem matchNapot_iff_div {w : Nat} (b a : BitVec w) :
    matchNapot b a = true ↔ a.toNat / napotSize b.toNat = b.toNat / napotSize b.toNat := by
  simp [matchNapot, napotShift, napotSize, Nat.shiftRight_eq_div_pow]

theorem matchTor_iff {w : Nat} (b p a : BitVec w) :
    matchTor b p a = true ↔ p.toNat ≤ a.toNat ∧ a.toNat < b.toNat := by
  simp [matchTor]

theorem matchNa4_iff {w : Nat} (b a : BitVec w) :
    matchNa4 b a = true ↔ b.toNat ≤ a.toNat ∧ a.toNat < b.toNat + 4 := by
  simp [matchNa4]

theorem prev_toNat (t : Table) (i : Fin 64) : (t.prev i).toNat = prevBoundary t i := by
  unfold Table.prev prevBoundary
  split <;> rfl

/-- The match function by the number in bits 4:3. -/
theorem matchCfg_by_code {w : Nat} (c : CfgByte) (b p a : BitVec w) :
    matchCfg c b p a =
      if modeCode c = 0 then matchOff a
      else if modeCode c = 1 then matchTor b p a
      else if modeCode c = 2 then matchNa4 b a
      else matchNapot b a := by
  have h : ∀ c : CfgByte, decodeMode c =
      if modeCode c = 0 then .off else if modeCode c = 1 then .tor
      else if modeCode c = 2 then .na4 else .napot := by decide
  unfold matchCfg decodeRegion
  simp only [h c]
  by_cases h0 : modeCode c = 0
  · simp [h0]
  · by_cases h1 : modeCode c = 1
    · simp [h1]
    · by_cases h2 : modeCode c = 2 <;> simp [h0, h1, h2]

/-- The machine's match result is the match of the reference function. -/
theorem matchAt_iff (t : Table) (i : Fin 64) (a : Word) : t.matchAt i a = true ↔ Matches t i a := by
  unfold Table.matchAt Matches
  rw [matchCfg_by_code, ← prev_toNat, alignDown_eq_iff _ _ _ (napotSize_pos _),
    ← matchTor_iff, ← matchNa4_iff, ← matchNapot_iff_div]
  have h4 : modeCode t.cfg[i] < 4 := Nat.mod_lt _ (by decide)
  generalize modeCode t.cfg[i] = m at h4 ⊢
  match m, h4 with
  | 0, _ => simp [matchOff]
  | 1, _ => simp
  | 2, _ => simp
  | 3, _ => simp

end Sys2Proof.Machine
end

