-- ==== Sys2Proof/Laws/PerInstr.lean ====
section
/-! SUPPORT. Laws per instruction.  The family TableRow: an encoded instruction has the fixed bits of its
row in spec/opcode_table.json. -/

namespace Sys2Proof.Laws.TableRow

/-- The `mask` of an instruction's row. -/
def rowMask : Instr → Nat
  | .checkR _ _ => 0x3
  | .checkW _ _ => 0x3
  | .checkX _ _ => 0x3
  | .reservedOp3 _ _ => 0x3
  | .nop _ _ => 0x7
  | .wr _ _ => 0x7
  | .rds _ _ => 0x7
  | .rda _ _ => 0x7
  | .commit _ _ => 0x7
  | .reservedCmd5 _ _ => 0x7
  | .reservedCmd6 _ _ => 0x7
  | .reservedCmd7 _ _ => 0x7
  | .matchOff _ => 0x18
  | .matchTor _ => 0x18
  | .matchNa4 _ => 0x18
  | .matchNapot _ => 0x18

/-- The `match` of an instruction's row. -/
def rowMatch : Instr → Nat
  | .checkR _ _ => 0x0
  | .checkW _ _ => 0x1
  | .checkX _ _ => 0x2
  | .reservedOp3 _ _ => 0x3
  | .nop _ _ => 0x0
  | .wr _ _ => 0x1
  | .rds _ _ => 0x2
  | .rda _ _ => 0x3
  | .commit _ _ => 0x4
  | .reservedCmd5 _ _ => 0x5
  | .reservedCmd6 _ _ => 0x6
  | .reservedCmd7 _ _ => 0x7
  | .matchOff _ => 0x00
  | .matchTor _ => 0x08
  | .matchNa4 _ => 0x10
  | .matchNapot _ => 0x18

/-- The word of the instruction has the fixed bits of its row. -/
def Statement (i : Instr) : Prop := (encode i).toNat &&& rowMask i = rowMatch i

theorem requestRow (a : Word) (p : Priv) (op : BitVec 2) :
    (encodeK a p op).toNat &&& 0x3 = op.toNat := by
  have h := op.isLt
  rw [encodeK_toNat]
  exact (Nat.and_two_pow_sub_one_eq_mod _ 2).trans (by omega)

theorem commandRow (v : Word) (x : Idx) (cmd : BitVec 3) :
    (encodeC v x cmd).toNat &&& 0x7 = cmd.toNat := by
  have h := cmd.isLt
  rw [encodeC_toNat]
  exact (Nat.and_two_pow_sub_one_eq_mod _ 3).trans (by omega)

theorem configRow (f : CfgFlags) (m : BitVec 2) : (encodeG f m).toNat &&& 0x18 = m.toNat * 8 := by
  obtain ⟨u, x, w, r⟩ := f
  revert u x w r m
  unfold encodeG
  decide

theorem checkR (p : Priv) (a : Word) : Statement (.checkR p a) := requestRow a p 0
theorem checkW (p : Priv) (a : Word) : Statement (.checkW p a) := requestRow a p 1
theorem checkX (p : Priv) (a : Word) : Statement (.checkX p a) := requestRow a p 2
theorem reservedOp3 (p : Priv) (a : Word) : Statement (.reservedOp3 p a) := requestRow a p 3
theorem nop (x : Idx) (v : Word) : Statement (.nop x v) := commandRow v x 0
theorem wr (r : Reg) (v : Word) : Statement (.wr r v) := commandRow v (encodeReg r) 1
theorem rds (r : Reg) (v : Word) : Statement (.rds r v) := commandRow v (encodeReg r) 2
theorem rda (r : Reg) (v : Word) : Statement (.rda r v) := commandRow v (encodeReg r) 3
theorem commit (x : Idx) (v : Word) : Statement (.commit x v) := commandRow v x 4
theorem reservedCmd5 (x : Idx) (v : Word) : Statement (.reservedCmd5 x v) := commandRow v x 5
theorem reservedCmd6 (x : Idx) (v : Word) : Statement (.reservedCmd6 x v) := commandRow v x 6
theorem reservedCmd7 (x : Idx) (v : Word) : Statement (.reservedCmd7 x v) := commandRow v x 7
theorem matchOff (f : CfgFlags) : Statement (.matchOff f) := configRow f 0
theorem matchTor (f : CfgFlags) : Statement (.matchTor f) := configRow f 1
theorem matchNa4 (f : CfgFlags) : Statement (.matchNa4 f) := configRow f 2
theorem matchNapot (f : CfgFlags) : Statement (.matchNapot f) := configRow f 3

end Sys2Proof.Laws.TableRow
end

