-- ==== Sys2Proof/Laws/Resolver.lean ====
section
/-! SUPPORT. Laws of the resolver: the first match, and what a request or a command word runs. -/

namespace Sys2Proof.Machine

open Sys2Proof.Safety

/-- The find-first gives the least matching entry. -/
theorem firstMatch_eq_some_iff (t : Table) (a : Word) (i : Fin 64) :
    t.firstMatch a = some i ↔ FirstMatch t i a := by
  unfold Table.firstMatch FirstMatch
  rw [List.find?_eq_some_iff_getElem]
  simp only [matchAt_iff, Bool.not_eq_true', ← Bool.not_eq_true]
  constructor
  · rintro ⟨h, n, hn, he, hj⟩
    have hin : i.val = n := by rw [← he]; simp
    refine ⟨h, fun j hji => ?_⟩
    simpa using hj j.val (by omega)
  · rintro ⟨h, hj⟩
    refine ⟨h, i.val, by simp, by simp, fun j hji => ?_⟩
    simpa using hj ⟨j, by omega⟩ hji

/-- The find-first gives nothing where nothing matches. -/
theorem firstMatch_eq_none_iff (t : Table) (a : Word) :
    t.firstMatch a = none ↔ ∀ i, ¬ Matches t i a := by
  unfold Table.firstMatch
  rw [List.find?_eq_none]
  simp [matchAt_iff]

/-- There is one first match at most. -/
theorem firstMatch_unique (t : Table) (a : Word) (i j : Fin 64) (hi : FirstMatch t i a)
    (hj : FirstMatch t j a) : i = j := by
  rw [← firstMatch_eq_some_iff] at hi hj
  exact Option.some.inj (hi.symm.trans hj)

/-- What a request does: it answers with the decision of the active table. -/
theorem exec_request (op : Op) (p : Priv) (a : Word) (s : State) :
    exec (request op p a) s = .next (s.answerCheck (resolve s.active a op)) := by
  cases op <;> rfl

/-- What a request word does, all four operation codes at once. -/
theorem exec_decodeK (k : KWord) (s : State) :
    exec (decodeK k) s =
      .next (s.answerCheck (resolveCode s.active (k.extractLsb' 4 32) (k.extractLsb' 0 2))) := by
  have h1 : (k.extractLsb' 0 2).getLsbD 1 = k.getLsbD 1 := by simp
  have h0 : (k.extractLsb' 0 2).getLsbD 0 = k.getLsbD 0 := by simp
  unfold decodeK resolveCode
  rw [h1, h0]
  cases k.getLsbD 1 <;> cases k.getLsbD 0 <;> rfl

/-- What a config byte decodes to is one of the four MATCH rows. -/
theorem decodeG_cases (c : CfgByte) :
    decodeG c = .matchOff (decodeFlags c) ∨ decodeG c = .matchTor (decodeFlags c) ∨
    decodeG c = .matchNa4 (decodeFlags c) ∨ decodeG c = .matchNapot (decodeFlags c) := by
  unfold decodeG
  cases decodeMode c <;> simp

end Sys2Proof.Machine
end

