-- ==== Sys2Proof/Laws/Step.lean ====
section
/-! SUPPORT. Laws of fetching: what a step is about, case by case of the inputs. -/

namespace Sys2Proof.Machine

section
variable (s : State) (rest : List Input)

theorem fetch_nil (h : s.inputs = []) : fetch s = (.idle, s) := by
  simp [fetch, h]

theorem fetch_reset (h : s.inputs = .reset :: rest) :
    fetch s = (.reset, { s with inputs := rest }) := by
  simp [fetch, h]

theorem fetch_none (h : s.inputs = .ports none none :: rest) :
    fetch s = (.idle, { s with inputs := rest }) := by
  simp [fetch, h]

theorem fetch_request (k : KWord) (h : s.inputs = .ports (some k) none :: rest) :
    fetch s = (.run (decodeK k), { s with inputs := rest }) := by
  simp [fetch, h]

theorem fetch_command (c : CWord) (h : s.inputs = .ports none (some c) :: rest) :
    fetch s = (.run (decodeC c), { s with inputs := rest }) := by
  simp [fetch, h]

theorem fetch_both (k : KWord) (c : CWord) (h : s.inputs = .ports (some k) (some c) :: rest) :
    fetch s = (.run (decodeK k), { s with inputs := .ports none (some c) :: rest }) := by
  simp [fetch, h]

theorem fetch_matcher (i : Fin 64) (a : Word) (h : s.inputs = .matcher i a :: rest) :
    fetch s = (.run (decodeG s.active.cfg[i]),
      { s with inputs := rest, probe := { entry := i, addr := a } }) := by
  simp [fetch, h]

end

/-- What a fetch can do: it takes inputs, it may set the probe, and it writes no table. -/
theorem fetch_tables (s : State) :
    (fetch s).2.active = s.active ∧ (fetch s).2.staging = s.staging := by
  unfold fetch
  split <;> exact ⟨rfl, rfl⟩

/-- The inputs left after a fetch: none new but for the command that waits behind a request. -/
theorem fetch_inputs (s : State) (x : Input) (h : x ∈ (fetch s).2.inputs) :
    x ∈ s.inputs ∨ ∃ k c, .ports (some k) (some c) ∈ s.inputs ∧ x = .ports none (some c) := by
  unfold fetch at h
  split at h <;> simp_all
  · tauto

end Sys2Proof.Machine
end

