-- ==== Sys2Proof/Laws/Run.lean ====
section
/-! SUPPORT. Laws of runs and of sequences of operations. -/

namespace Sys2Proof.Machine

open Sys2Proof.Safety

@[simp] theorem run_zero (s : State) : Host.Core.run core 0 s = .next s := rfl

/-- For any machine of the host's interface: a run goes on from the state its first step gives. -/
theorem coreRun_succ (m : Host.Core) (n : Nat) (s t : m.State) (h : m.step s = .next t) :
    m.run (n + 1) s = m.run n t := by
  rw [Host.Core.run, h]

/-- A run goes on from the state its first step gives. -/
theorem run_succ_of_next (n : Nat) (s t : State) (h : step s = .next t) :
    Host.Core.run core (n + 1) s = Host.Core.run core n t :=
  coreRun_succ core n s t h

/-- A sequence after a sequence. -/
theorem execAll_append (is js : List Instr) (s : State) :
    execAll (is ++ js) s =
      match execAll is s with
      | .next t => execAll js t
      | .fault r => .fault r
      | .refused r => .refused r := by
  induction is generalizing s with
  | nil => rfl
  | cons i is ih =>
    simp only [List.cons_append, execAll]
    cases exec i s with
    | next t => exact ih t
    | fault r => rfl
    | refused r => rfl

/-- What one operation does to the two tables. -/
theorem exec_tables (i : Instr) (s t : State) : exec i s = .next t →
    t.active = (match i with | .commit _ _ => s.staging | _ => s.active) ∧
    t.staging = (match i with | .wr r v => s.staging.writeReg r v | _ => s.staging) := by
  intro h
  cases i <;> cases h <;> exact ⟨rfl, rfl⟩

end Sys2Proof.Machine
end

