-- ==== Sys2Proof/Tests/Slice0.lean ====
section
/-! SUPPORT. Tests: each is about one step or one function on a small state.  The expected results are
those of 95_test_vectors.md and of the examples in the rules, not the model's own answers. -/

namespace Sys2Proof.Tests

open Sys2Proof.Machine Sys2Proof.Safety

/-- A table of zeros with some registers written (95_test_vectors.md: registers not listed are 0). -/
def table : List (Reg × Word) → Table
  | [] => Table.zero
  | (r, v) :: rest => (table rest).writeReg r v

/-- A machine with the given tables and inputs, else as after reset. -/
def machine (act stg : List (Reg × Word)) (ins : List Input := []) : State :=
  { State.reset with active := table act, staging := table stg, inputs := ins }

/-- The decision a step's outcome records. -/
def decisionOf : Host.Outcome State Fault Refusal → Option Decision
  | .next t => t.decision
  | _ => none

/-- The `rdata` a step's outcome shows. -/
def rdataOf : Host.Outcome State Fault Refusal → Option Word
  | .next t => some t.rdata
  | _ => none

/-- The match a step's outcome records. -/
def matchedOf : Host.Outcome State Fault Refusal → Option Bool
  | .next t => t.matched
  | _ => none

/-- A register of the active table after a step. -/
def activeOf (r : Reg) : Host.Outcome State Fault Refusal → Option Word
  | .next t => some (t.active.readReg r)
  | _ => none

/-- A register of the staging table after a step. -/
def stagingOf (r : Reg) : Host.Outcome State Fault Refusal → Option Word
  | .next t => some (t.staging.readReg r)
  | _ => none

/-! ### Config and Word: the widths agree -/

theorem test_widths : Word = BitVec Config.AW ∧ CfgByte = BitVec Config.CW ∧
    Idx = BitVec Config.IW ∧ KWord = BitVec Config.kBits ∧ CWord = BitVec Config.cBits ∧
    2 ^ Config.IW = 2 * Config.NREG :=
  ⟨rfl, rfl, rfl, rfl, rfl, rfl⟩

/-! ### WellFormed: an ill-formed term for each check, refused -/

theorem test_domain_refuses_reserved_priv : (Instr.checkR .reserved 0).inSourceDomain = false := by decide
theorem test_domain_refuses_reserved_op : (Instr.reservedOp3 .user 0).inSourceDomain = false := by decide
theorem test_domain_refuses_reserved_cmd : (Instr.reservedCmd5 0 0).inSourceDomain = false := by decide
theorem test_syntax_refuses_nop_with_idx : (Instr.nop 5 0).inSyntax = false := by decide
theorem test_syntax_refuses_rds_with_wdata : (Instr.rds (.cfg 0) 1).inSyntax = false := by decide
theorem test_syntax_refuses_commit_with_wdata : (Instr.commit 0 1).inSyntax = false := by decide
theorem test_fits_refuses_127_numbers : tableFits (List.replicate 127 0) = false := by
  simp [tableFits]
theorem test_fits_refuses_wide_config : tableFits (0x100 :: List.replicate 127 0) = false := by
  simp [tableFits]
theorem test_fits_refuses_wide_boundary : tableFits (List.replicate 127 0 ++ [2 ^ 32]) = false := by
  simp [tableFits]
theorem test_fits_accepts_zeros : tableFits (List.replicate 128 0) = true := by
  simp [tableFits]

/-! ### Decode: a word of every row, from 95_test_vectors.md and 30_encoding.md -/

theorem test_decode_checkR : decodeK 0x000028024 = .checkR .supervisor 0x2802 := by decide
theorem test_decode_checkW : decodeK 0xFFFFFFFFD = .checkW .machine 0xFFFFFFFF := by decide
theorem test_decode_checkX : decodeK 0x00000FFCE = .checkX .machine 0x0FFC := by decide
theorem test_decode_reservedOp3 : decodeK 0x000010003 = .reservedOp3 .user 0x1000 := by decide
theorem test_decode_reserved_priv : decodeK 0x000000108 = .checkR .reserved 0x10 := by decide
theorem test_decode_nop : decodeC 0x00000000000 = .nop 0 0 := by decide
theorem test_decode_wr_cfg : decodeC 0x0000007FC19 = .wr (.cfg 3) 0x1FF := by decide
theorem test_decode_wr_addr : decodeC 0x3FFFFFFFE19 = .wr (.addr 3) 0xFFFFFFFF := by decide
theorem test_decode_rds : decodeC 0x000000003FA = .rds (.addr 63) 0 := by decide
theorem test_decode_rda : decodeC 0x00000000203 = .rda (.addr 0) 0 := by decide
theorem test_decode_commit : decodeC 0x00000000004 = .commit 0 0 := by decide
theorem test_decode_reservedCmd5 : decodeC 0x0000002AC2D = .reservedCmd5 5 0xAB := by decide
theorem test_decode_reservedCmd6 : decodeC 0x00000000006 = .reservedCmd6 0 0 := by decide
theorem test_decode_reservedCmd7 : decodeC 0x00000000007 = .reservedCmd7 0 0 := by decide
theorem test_decode_matchOff : decodeG 0x07 =
    .matchOff { unused := 0, x := true, w := true, r := true } := by decide
theorem test_decode_matchTor : decodeG 0x0D =
    .matchTor { unused := 0, x := true, w := false, r := true } := by decide
theorem test_decode_matchNa4 : decodeG 0x91 =
    .matchNa4 { unused := 4, x := false, w := false, r := true } := by decide
theorem test_decode_matchNapot : decodeG 0x1A =
    .matchNapot { unused := 0, x := false, w := true, r := false } := by decide

theorem test_bytes_request : decode .k [0x10, 0x00, 0x02, 0x00, 0x00] = .ok (.checkR .user 0x2001) := by
  decide
theorem test_bytes_wrong_length : decode .k [0x10, 0x00, 0x02, 0x00] = .error .wrongLength := by decide
theorem test_bytes_padding : decode .c [0x04, 0x00, 0x00, 0x00, 0x00, 0x04] = .error .paddingSet := by
  decide

theorem test_table_word_request : decodeTableWord 40 0x000020011 = some (.checkW .user 0x2001) := by
  decide
theorem test_table_word_command : decodeTableWord 48 0x00000004401 = some (.wr (.cfg 0) 0x11) := by
  decide
theorem test_table_word_config : decodeTableWord 8 0x08 =
    some (.matchTor { unused := 0, x := false, w := false, r := false }) := by decide
theorem test_table_word_padding : decodeTableWord 40 (2 ^ 36) = none := by decide

theorem test_encode_checkR : encode (.checkR .machine 0xFFFFFFFF) = .k 0xFFFFFFFFC := by decide
theorem test_encode_wr : encode (.wr (.addr 63) 0x20) = .c 0x000000083F9 := by decide

/-! ### The matcher: 95_test_vectors.md sections 2.1 to 2.4 -/

theorem test_region_0xFF : decodeRegion 0xFF =
    { mode := .napot, canRead := true, canWrite := true, canExecute := true } := by decide
theorem test_tor_exclusive_top : matchTor (0x1000 : Word) 0 0x1000 = false := by decide
theorem test_tor_inclusive_bottom : matchTor (0x1000 : Word) 0x800 0x800 = true := by decide
theorem test_na4_unaligned : matchNa4 (0x2002 : Word) 0x2005 = true := by decide
theorem test_na4_no_wrap : matchNa4 (0xFFFFFFFE : Word) 0 = false := by decide
theorem test_napot_from_zero : matchNapot (0x4 : Word) 0x3F = true ∧ matchNapot (0x4 : Word) 0x40 = false := by
  decide
theorem test_napot_wide : matchNapot (0xFFFFFFFF : Word) 0x12345678 = true := by decide
theorem test_napot_not_trailing_ones : matchNapot (0x2FFF : Word) 0x80000000 = true := by decide

/-! ### The MATCH rows: one step each on a small table -/

theorem test_step_matchOff :
    matchedOf (step (machine [(.cfg 0, 0x07), (.addr 0, 0xFFFFFFFF)] [] [.matcher 0 0x10])) = some false := by
  decide
theorem test_step_matchTor_after_off :
    matchedOf (step (machine [(.addr 0, 0x8000), (.cfg 1, 0x09), (.addr 1, 0xC000)] []
      [.matcher 1 0x7FFF])) = some false := by decide
theorem test_step_matchTor_bottom :
    matchedOf (step (machine [(.addr 0, 0x8000), (.cfg 1, 0x09), (.addr 1, 0xC000)] []
      [.matcher 1 0x8000])) = some true := by decide
theorem test_step_matchNa4 :
    matchedOf (step (machine [(.cfg 5, 0x10), (.addr 5, 0xFFFFFFFE)] [] [.matcher 5 0xFFFFFFFF])) =
      some true := by decide
theorem test_step_matchNapot :
    matchedOf (step (machine [(.cfg 63, 0x18), (.addr 63, 0x1C)] [] [.matcher 63 0x40000000])) =
      some false := by decide

/-! ### Requests: 95_test_vectors.md sections 1, 2.5 and 2.6 -/

theorem test_checkR_na4 :
    decisionOf (step (machine [(.cfg 0, 0x11), (.addr 0, 0x2000)] [] [.ports (some 0x000020010) none])) =
      some .allowed := by decide
theorem test_checkR_first_match_denies :
    decisionOf (exec (.checkR .user 0x2000) (machine [(.cfg 0, 0x10), (.addr 0, 0x2000),
      (.cfg 1, 0x17), (.addr 1, 0x2000)] [])) = some .fault := by decide
theorem test_checkW_no_flag :
    decisionOf (exec (.checkW .user 0x2001) (machine [(.cfg 0, 0x11), (.addr 0, 0x2000)] [])) =
      some .fault := by decide
theorem test_checkW_without_read :
    decisionOf (exec (.checkW .machine 0x2000) (machine [(.cfg 0, 0x12), (.addr 0, 0x2000)] [])) =
      some .allowed := by decide
theorem test_checkX_last_entry :
    decisionOf (exec (.checkX .user 0x80) (machine [(.cfg 63, 0x0F), (.addr 63, 0x100), (.addr 62, 0x80)] [])) =
      some .allowed := by decide
theorem test_checkX_below_last_entry :
    decisionOf (exec (.checkX .user 0x7F) (machine [(.cfg 63, 0x0F), (.addr 63, 0x100), (.addr 62, 0x80)] [])) =
      some .fault := by decide
theorem test_reservedOp3 :
    decisionOf (step (machine [(.cfg 0, 0x1F), (.addr 0, 0x2000)] [] [.ports (some 0x000020003) none])) =
      some .fault := by decide
theorem test_reserved_priv_ignored :
    decisionOf (step (machine [(.cfg 0, 0x0F), (.addr 0, 0x1000)] [] [.ports (some 0x000000108) none])) =
      some .allowed := by decide
theorem test_machine_level_denied :
    decisionOf (exec (.checkR .machine 0x10) (machine [(.cfg 0, 0x88), (.addr 0, 0x1000)] [])) =
      some .fault := by decide
theorem test_check_port_bit :
    checkPort (table [(.cfg 0, 0x11), (.addr 0, 0x2000)]) 0x000020010 = 0 ∧
    checkPort (table [(.cfg 0, 0x11), (.addr 0, 0x2000)]) 0x000020011 = 1 := by decide

/-! ### Commands: 95_test_vectors.md section 2.7 -/

theorem test_wr_keeps_low_byte :
    stagingOf (.cfg 3) (step (machine [] [] [.ports none (some 0x0000007FC19)])) = some 0xFF := by decide
theorem test_wr_not_active :
    activeOf (.addr 3) (step (machine [] [] [.ports none (some 0x3FFFFFFFE19)])) = some 0 := by decide
theorem test_rds : rdataOf (exec (.rds (.cfg 3) 0) (machine [] [(.cfg 3, 0x1FF)])) = some 0xFF := by decide
theorem test_rda_reads_active : rdataOf (exec (.rda (.cfg 0) 0) (machine [] [(.cfg 0, 0x11)])) = some 0 := by
  decide
theorem test_commit : activeOf (.addr 3) (exec (.commit 0 0) (machine [] [(.addr 3, 0xFFFFFFFF)])) =
    some 0xFFFFFFFF := by decide
theorem test_nop_leaves_staging : stagingOf (.cfg 3) (exec (.nop 3 7) (machine [] [(.cfg 3, 0xFF)])) =
    some 0xFF := by decide
theorem test_reservedCmd5 : stagingOf (.cfg 5)
    (step (machine [] [(.cfg 5, 1)] [.ports none (some 0x0000002AC2D)])) = some 1 := by decide
theorem test_reservedCmd6 : rdataOf (exec (.reservedCmd6 3 0) (machine [] [(.cfg 3, 0xFF)])) = some 0 := by
  decide
theorem test_reservedCmd7 : activeOf (.cfg 3) (exec (.reservedCmd7 3 9) (machine [] [(.cfg 3, 0xFF)])) =
    some 0 := by decide

/-! ### Steps: both ports, reset, idle, and the host's placing of a word -/

theorem test_same_step_request_first :
    decisionOf (step (machine [] [(.cfg 0, 0x11), (.addr 0, 0x2000)]
      [.ports (some 0x000020010) (some 0x00000000004)])) = some .fault := by decide
theorem test_reset_step : activeOf (.cfg 0) (step (machine [(.cfg 0, 0x1F)] [] [.reset])) = some 0 := by
  decide
theorem test_idle : rdataOf (step State.reset) = some 0 := by decide
theorem test_placed_request : decisionOf (step (State.reset.withFetchWord 40 0x000010000)) = some .fault := by
  decide
theorem test_placed_command :
    stagingOf (.cfg 0) (step (State.reset.withFetchWord 48 0x00000004401)) = some 0x11 := by decide
theorem test_placed_config_byte : matchedOf (step (State.reset.withFetchWord 8 0x11)) = some true := by
  decide

/-! ### Witnesses: the hypotheses of each obligation are met together -/

/-- The table of S2: entry 0 is NA4 with R at 0x2000. -/
def s2 : Table := table [(.cfg 0, 0x11), (.addr 0, 0x2000)]

theorem s2_firstMatch : FirstMatch s2 0 0x2001 :=
  ⟨.inr (.inl (by decide)), fun j hj => absurd hj (Nat.not_lt_zero j.val)⟩

theorem zero_noMatch (i : Fin 64) (a : Word) : ¬ Matches Table.zero i a := by
  simp [Matches, Table.zero, modeCode]

theorem witness_StepRunsDecodedWord_request :
    (machine [] [] [.ports (some 0x000010000) none]).inputs = .ports (some 0x000010000) none :: [] := rfl
theorem witness_StepRunsDecodedWord_command :
    (machine [] [] [.ports none (some 4)]).inputs = .ports none (some 4) :: [] := rfl
theorem witness_StepRunsDecodedWord_both :
    (machine [] [] [.ports (some 0) (some 4)]).inputs = .ports (some 0) (some 4) :: [] := rfl
theorem witness_StepRunsDecodedWord_matcher :
    (machine [] [] [.matcher 63 0]).inputs = .matcher 63 0 :: [] := rfl
theorem witness_IdleStepChangesNothing_empty : State.reset.inputs = [] := rfl
theorem witness_IdleStepChangesNothing_none :
    (machine [] [] [.ports none none]).inputs = .ports none none :: [] := rfl
theorem witness_SameStepRequestIsFirst :
    (machine [] [] [.ports (some 0) (some 4)]).inputs = .ports (some 0) (some 4) :: [] ∧
    (4 : CWord).toNat % 8 = 4 := ⟨rfl, rfl⟩
theorem witness_ResetStepClearsBothTables : (machine [] [] [.reset]).inputs = .reset :: [] := rfl
theorem witness_MatchFunctionsByMode :
    (0xE7 : CfgByte) &&& 0x18 = 0x00 ∧ (0x10 : CfgByte) &&& 0x18 = 0x10 ∧
    (0xFF : CfgByte) &&& 0x18 = 0x18 := by decide
theorem witness_TorRangeOfEntry :
    (table [(.cfg 0, 0x08)]).cfg[0] &&& 0x18 = 0x08 ∧
    (table [(.cfg 63, 0x0F)]).cfg[62 + 1] &&& 0x18 = 0x08 := by decide
theorem witness_MatcherLaws :
    1 ≤ (1 : Word).toNat ∧ (HasFlag 0x01 .read ↔ HasFlag 0xFF .read) ∧
    (HasFlag 0x02 .read ↔ HasFlag 0x00 .read) := by
  simp [HasFlag, flagNumber]
theorem witness_NapotClosedForm : (7 : Word).toNat / 4 = (4 : Word).toNat / 4 := by decide
theorem witness_NapotAtOtherWidths :
    (32 ≤ 32 ∧ 8 ≤ 32) ∧ 32 < 34 ∧ (BitVec.ofNat 34 (2 ^ 32)).toNat = 2 ^ 32 := by decide
theorem witness_TopAddressCoverage : (0xFFFFFFFF : Word).toNat = 2 ^ 32 - 1 := by decide
theorem witness_ObservedMatchIsTheVectors :
    (machine [] [] [.matcher 0 0xFFFFFFFF]).inputs = .matcher 0 0xFFFFFFFF :: [] := rfl
theorem witness_CheckDecidesByFirstMatch_granted : Grants s2 0x2001 .read :=
  ⟨0, s2_firstMatch, by unfold HasFlag flagNumber; decide⟩
theorem witness_CheckDecidesByFirstMatch_denied : ¬ Grants Table.zero 0x1000 .read := by
  intro h
  obtain ⟨i, hi, _⟩ := h
  exact zero_noMatch i _ hi.1
theorem witness_FirstMatchIsFinal :
    FirstMatch s2 0 0x2001 ∧ ∀ j : Fin 64, j.val ≤ (0 : Fin 64).val →
      (s2.writeReg (.cfg 1) 0x17).cfg[j] = s2.cfg[j] ∧ (s2.writeReg (.cfg 1) 0x17).addr[j] = s2.addr[j] := by
  refine ⟨s2_firstMatch, fun j hj => ?_⟩
  have h0 : j = 0 := Fin.ext (by omega)
  subst h0
  decide
theorem witness_NoMatchIsDenied :
    (∀ i, ¬ Matches State.reset.active i 0x1000) ∧ AllOff State.reset.active := by
  refine ⟨fun i => zero_noMatch i _, fun i => ?_⟩
  simp [State.reset, Table.zero, modeCode]
theorem witness_CausesOfFault_denied :
    FirstMatch s2 0 0x2001 ∧ ¬ HasFlag s2.cfg[(0 : Fin 64)] .write :=
  ⟨s2_firstMatch, by unfold HasFlag flagNumber; decide⟩
theorem witness_PrivilegeIsNotConsulted :
    (0x000000100 : KWord).toNat % 4 = (0x000000108 : KWord).toNat % 4 ∧
    (0x000000100 : KWord).toNat / 16 = (0x000000108 : KWord).toNat / 16 := by decide
theorem witness_UnusedConfigBitsMeanNothing :
    (table [(.cfg 0, 0xF1), (.addr 0, 0x2000)]).addr = s2.addr ∧
    ∀ i : Fin 64, (table [(.cfg 0, 0xF1), (.addr 0, 0x2000)]).cfg[i] &&& 0x1F = s2.cfg[i] &&& 0x1F := by
  decide
theorem witness_BoundaryChangeIsLocal :
    (2 : Fin 64).val ≠ (0 : Fin 64).val ∧ (2 : Fin 64).val ≠ (0 : Fin 64).val + 1 ∧
    modeCode (table []).cfg[(0 : Fin 64)] = 0 ∧ (1 : Fin 64).val = (0 : Fin 64).val + 1 ∧
    modeCode (table []).cfg[(1 : Fin 64)] ≠ 1 := by decide
theorem witness_RequestReadsOnlyActiveTable :
    (machine [] [(.cfg 0, 0x1F)]).active = State.reset.active := by decide
theorem witness_WritesCommuteAndLaterWins : Reg.cfg 0 ≠ Reg.addr 0 := by decide
theorem witness_UnreadFieldsHaveNoEffect :
    (0x0000002AC2D : CWord).toNat % 8 = (5 : CWord).toNat % 8 ∧ 4 ≤ (0x0000002AC2D : CWord).toNat % 8 ∧
    (0x00000000402 : CWord).toNat % 8 = 2 ∧
    (0x00000000402 : CWord).toNat / 8 % 128 = (2 : CWord).toNat / 8 % 128 := by decide
theorem witness_TablesChangeOnlyAsStated : step State.reset = .next State.reset.idle := rfl
theorem witness_LatestWriteAndLatestCommitAreSeen :
    NoWriteTo (.cfg 0) [.wr (.addr 0) 1, .commit 0 0] ∧ NoCommit [.wr (.cfg 0) 1] :=
  ⟨fun v => by simp, fun x v => by simp⟩
theorem witness_StagedIsNotActive :
    ∀ x ∈ (machine [] [] [.ports (some 0) (some 0x00000004401)]).inputs, ¬ HasCommit x := by
  simp [machine, HasCommit]
theorem witness_StagedIsNotActiveStep :
    EqualButForStaged (machine [] [] [.ports (some 0) (some 0x00000004401)])
      (machine [] [(.cfg 0, 0x1F)] [.ports (some 0) (some 0x00000004401)]) := by
  refine ⟨rfl, rfl, rfl, ?_⟩
  simp [machine, HasCommit]
theorem witness_LoadingATable :
    (∀ n, n ∈ List.range 128 ↔ n < 128) ∧
    (machine [] [] (loadInputs (fun _ => 0x1F) (List.range 128))).inputs =
      loadInputs (fun _ => 0x1F) (List.range 128) ++ [] := by
  refine ⟨fun n => by simp, ?_⟩
  rw [List.append_nil]
  rfl
theorem witness_ClosedIsKept : Closed State.reset ∧ step State.reset = .next State.reset.idle := by
  refine ⟨⟨fun i => ?_, fun i => ?_, ?_⟩, rfl⟩ <;> simp [State.reset, Table.zero, modeCode]
theorem witness_ClosedAtReset :
    ∀ x ∈ [Input.ports none (some 0x00000001C01), .ports none (some 4)], ¬ StagesMode x := by
  simp [StagesMode]
theorem witness_DeniedUntilFirstCommit :
    ∀ x ∈ [Input.ports (some 0x000010000) (some 0x00000004401)], ¬ HasCommit x := by
  simp [HasCommit]
theorem witness_DenyingIsKept :
    Denying (machine [] [(.cfg 0, 0x1F)] [.ports (some 0x000010000) (some 0x00000004401)]) ∧
    ∃ t, step (machine [] [(.cfg 0, 0x1F)] [.ports (some 0x000010000) (some 0x00000004401)]) =
      .next t := by
  refine ⟨⟨fun i => ?_, ?_⟩, _, rfl⟩
  · simp [machine, table, Table.zero, modeCode]
  · simp [machine, HasCommit]
theorem witness_DenyingAtReset :
    ∀ x ∈ [Input.reset, .ports none (some 0x00000001C01)], ¬ HasCommit x := by
  simp [HasCommit]

end Sys2Proof.Tests
end

section
/-! Bits 7:5 of a config byte (R25): DECODE does not read them, so neither does the scan, and WR
stores them like the other bits. -/

namespace Sys2Proof.Machine

/-- DECODE reads bits 4:0 only (R100). -/
theorem decodeRegion_and_low (c : CfgByte) : decodeRegion (c &&& 0x1F) = decodeRegion c := by
  simp [decodeRegion, decodeMode]

theorem decodeRegion_congr {c c' : CfgByte} (h : c' &&& 0x1F = c &&& 0x1F) :
    decodeRegion c' = decodeRegion c := by
  rw [← decodeRegion_and_low c', h, decodeRegion_and_low]

/-- The match function sees a config byte through DECODE. -/
theorem matchCfg_congr {w : Nat} {c c' : CfgByte} (h : decodeRegion c' = decodeRegion c)
    (b p a : BitVec w) : matchCfg c' b p a = matchCfg c b p a := by
  simp only [matchCfg, h]

/-- The permission flags are those of DECODE. -/
theorem permits_congr {c c' : CfgByte} (h : decodeRegion c' = decodeRegion c) (op : Op) :
    permits c' op = permits c op := by
  cases op <;> simp only [permits, h]

/-- Two entries that the scan cannot tell apart: the same decoded config byte and the same
boundary. -/
def SameRegion (e' e : CfgByte × Word) : Prop :=
  decodeRegion e'.1 = decodeRegion e.1 ∧ e'.2 = e.2

/-- The scan of R131 reads an entry through DECODE and its boundary. -/
theorem scan_congr (op : Op) (a : Word) {es es' : List (CfgByte × Word)}
    (h : List.Forall₂ SameRegion es' es) (p : Word) : scan op a es' p = scan op a es p := by
  induction h generalizing p with
  | nil => rfl
  | @cons e' e _ _ he _ ih =>
    obtain ⟨c', b'⟩ := e'
    obtain ⟨c, b⟩ := e
    obtain ⟨hc, hb⟩ : decodeRegion c' = decodeRegion c ∧ b' = b := he
    subst hb
    simp only [scan, matchCfg_congr hc, permits_congr hc, ih]

@[simp] theorem Table.entries_length (t : Table) : t.entries.length = 64 := by
  simp [Table.entries]

@[simp] theorem Table.entries_getElem (t : Table) (i : Nat) (h : i < t.entries.length) :
    t.entries[i] = (t.cfg[i]'(by simpa using h), t.addr[i]'(by simpa using h)) := by
  simp [Table.entries]

/-- Tables with the same boundaries and the same decoded config bytes decide alike. -/
theorem resolve_congr {t t' : Table} (haddr : t'.addr = t.addr)
    (hcfg : ∀ i : Fin 64, decodeRegion t'.cfg[i] = decodeRegion t.cfg[i]) (a : Word) (op : Op) :
    resolve t' a op = resolve t a op := by
  have hentries : List.Forall₂ SameRegion t'.entries t.entries := by
    refine List.forall₂_iff_get.mpr ⟨by simp, fun i hi' hi => ?_⟩
    simpa [SameRegion, haddr] using hcfg ⟨i, by simpa using hi⟩
  exact scan_congr op a hentries 0

/-- Settles O30: the scan reads a config byte through DECODE, which drops bits 7:5, and a write to a
register stores its value whatever the register held. -/
theorem unusedConfigBitsMeanNothing : Obligations.UnusedConfigBitsMeanNothing := by
  refine ⟨fun t t' a op haddr hcfg => ?_, fun t i v => ⟨?_, ?_⟩⟩
  · exact resolve_congr haddr (fun i => decodeRegion_congr (hcfg i)) a op
  · rw [Table.writeReg_cfg_get, if_pos rfl, BitVec.toNat_setWidth]
  · rw [Table.writeReg_addr_get, if_pos rfl]

end Sys2Proof.Machine
end

section
/-! The port words by their fields (R75, R81): a word given as a number is the concatenation of its
fields, and each field read by the decoder is the one that was put there. -/

namespace Sys2Proof.Machine

open Sys2Proof.Safety

/-! ### The fields of a concatenation -/

section
variable {m n l : Nat} (x : BitVec m) (y : BitVec n) (z : BitVec l)

theorem extractLsb'_high_of_append : (x ++ y ++ z).extractLsb' (l + n) m = x := by
  rw [BitVec.extractLsb'_append_eq_of_le (by omega), Nat.add_sub_cancel_left,
    BitVec.extractLsb'_append_eq_left]

theorem extractLsb'_middle_of_append : (x ++ y ++ z).extractLsb' l n = y := by
  rw [BitVec.extractLsb'_append_eq_of_le le_rfl, Nat.sub_self, BitVec.extractLsb'_append_eq_right]

end

/-! ### Request words -/

/-- The number R75 writes is the concatenation of its fields. -/
theorem ofNat_requestFields (a : Word) (p : Priv) (op : BitVec 2) :
    BitVec.ofNat 36 (a.toNat * 2 ^ 4 + privCode p * 2 ^ 2 + op.toNat) = a ++ encodePriv p ++ op := by
  rw [← encodeK_toNat]
  exact BitVec.ofNat_toNat 36 _

theorem decodePriv_encodePriv (p : Priv) :
    decodePriv ((encodePriv p).getLsbD 1) ((encodePriv p).getLsbD 0) = p := by
  cases p <;> rfl

/-- The request of an operation code (R76), the spare code included. -/
def requestOfCode (op : BitVec 2) (p : Priv) (a : Word) : Instr :=
  match op.getLsbD 1, op.getLsbD 0 with
  | false, false => .checkR p a
  | false, true => .checkW p a
  | true, false => .checkX p a
  | true, true => .reservedOp3 p a

/-- `decodeK` by the fields of R75. -/
theorem decodeK_eq_requestOfCode (k : KWord) :
    decodeK k = requestOfCode (k.extractLsb' 0 2)
      (decodePriv ((k.extractLsb' 2 2).getLsbD 1) ((k.extractLsb' 2 2).getLsbD 0))
      (k.extractLsb' 4 32) := by
  have h3 : (k.extractLsb' 2 2).getLsbD 1 = k.getLsbD 3 := by simp
  have h2 : (k.extractLsb' 2 2).getLsbD 0 = k.getLsbD 2 := by simp
  have h1 : (k.extractLsb' 0 2).getLsbD 1 = k.getLsbD 1 := by simp
  have h0 : (k.extractLsb' 0 2).getLsbD 0 = k.getLsbD 0 := by simp
  rw [requestOfCode, h3, h2, h1, h0]
  rfl

theorem decodeK_requestFields (a : Word) (p : Priv) (op : BitVec 2) :
    decodeK (a ++ encodePriv p ++ op) = requestOfCode op p a := by
  have haddr : (a ++ encodePriv p ++ op : KWord).extractLsb' 4 32 = a :=
    extractLsb'_high_of_append a (encodePriv p) op
  have hpriv : (a ++ encodePriv p ++ op : KWord).extractLsb' 2 2 = encodePriv p :=
    extractLsb'_middle_of_append a (encodePriv p) op
  have hop : (a ++ encodePriv p ++ op : KWord).extractLsb' 0 2 = op :=
    BitVec.extractLsb'_append_eq_right
  rw [decodeK_eq_requestOfCode, hop, hpriv, haddr, decodePriv_encodePriv]

/-- The request of an operation code, for the word that R75 writes as a number. -/
theorem decodeK_ofNat (a : Word) (p : Priv) (op : BitVec 2) :
    decodeK (BitVec.ofNat 36 (a.toNat * 2 ^ 4 + privCode p * 2 ^ 2 + op.toNat)) =
      requestOfCode op p a := by
  rw [ofNat_requestFields, decodeK_requestFields]

/-- Settles O4: the number is a word of fields, whose two low bits choose the request. -/
theorem requestWordFields : Obligations.RequestWordFields := by
  intro p a
  exact ⟨decodeK_ofNat a p 0, decodeK_ofNat a p 1, decodeK_ofNat a p 2, decodeK_ofNat a p 3⟩

/-! ### Command words -/

/-- The number R81 writes is the concatenation of its fields. -/
theorem ofNat_commandFields (v : Word) (x : Idx) (cmd : BitVec 3) :
    BitVec.ofNat 42 (v.toNat * 2 ^ 10 + x.toNat * 2 ^ 3 + cmd.toNat) = v ++ x ++ cmd := by
  rw [← encodeC_toNat]
  exact BitVec.ofNat_toNat 42 _

/-- The command of a code (R82), the reserved codes included. -/
def commandOfCode (cmd : BitVec 3) (x : Idx) (v : Word) : Instr :=
  match cmd.getLsbD 2, cmd.getLsbD 1, cmd.getLsbD 0 with
  | false, false, false => .nop x v
  | false, false, true => .wr (decodeReg x) v
  | false, true, false => .rds (decodeReg x) v
  | false, true, true => .rda (decodeReg x) v
  | true, false, false => .commit x v
  | true, false, true => .reservedCmd5 x v
  | true, true, false => .reservedCmd6 x v
  | true, true, true => .reservedCmd7 x v

/-- `decodeC` by the fields of R81. -/
theorem decodeC_eq_commandOfCode (c : CWord) :
    decodeC c = commandOfCode (c.extractLsb' 0 3) (c.extractLsb' 3 7) (c.extractLsb' 10 32) := by
  have h2 : (c.extractLsb' 0 3).getLsbD 2 = c.getLsbD 2 := by simp
  have h1 : (c.extractLsb' 0 3).getLsbD 1 = c.getLsbD 1 := by simp
  have h0 : (c.extractLsb' 0 3).getLsbD 0 = c.getLsbD 0 := by simp
  rw [commandOfCode, h2, h1, h0]
  rfl

theorem decodeC_commandFields (v : Word) (x : Idx) (cmd : BitVec 3) :
    decodeC (v ++ x ++ cmd) = commandOfCode cmd x v := by
  have hwdata : (v ++ x ++ cmd : CWord).extractLsb' 10 32 = v := extractLsb'_high_of_append v x cmd
  have hidx : (v ++ x ++ cmd : CWord).extractLsb' 3 7 = x := extractLsb'_middle_of_append v x cmd
  have hcmd : (v ++ x ++ cmd : CWord).extractLsb' 0 3 = cmd := BitVec.extractLsb'_append_eq_right
  rw [decodeC_eq_commandOfCode, hcmd, hidx, hwdata]

/-- The command of a code, for the word that R81 writes as a number. -/
theorem decodeC_ofNat (v : Word) (x : Idx) (cmd : BitVec 3) :
    decodeC (BitVec.ofNat 42 (v.toNat * 2 ^ 10 + x.toNat * 2 ^ 3 + cmd.toNat)) =
      commandOfCode cmd x v := by
  rw [ofNat_commandFields, decodeC_commandFields]

/-- `decodeC_ofNat` for the index of a register (R83). -/
theorem decodeC_ofNat_reg (v : Word) (r : Reg) (cmd : BitVec 3) :
    decodeC (BitVec.ofNat 42 (v.toNat * 2 ^ 10 + regIndex r * 2 ^ 3 + cmd.toNat)) =
      commandOfCode cmd (encodeReg r) v := by
  rw [← encodeReg_toNat, decodeC_ofNat]

/-- Settles O5: the number is a word of fields, whose three low bits choose the command; an index
names the register that it is the index of. -/
theorem commandWordFields : Obligations.CommandWordFields := by
  refine ⟨fun x v => ?_, fun r v => ?_⟩
  · exact ⟨decodeC_ofNat v x 0, decodeC_ofNat v x 4, decodeC_ofNat v x 5, decodeC_ofNat v x 6,
      decodeC_ofNat v x 7⟩
  · have hr := decodeReg_encodeReg r
    refine ⟨(decodeC_ofNat_reg v r 1).trans ?_, (decodeC_ofNat_reg v r 2).trans ?_,
      (decodeC_ofNat_reg v r 3).trans ?_⟩
    · exact congrArg (Instr.wr · v) hr
    · exact congrArg (Instr.rds · v) hr
    · exact congrArg (Instr.rda · v) hr

end Sys2Proof.Machine
end

section
/-! Answers to a request word: they depend on its `addr` and `op` fields and on the active table
(R130, R140), and the check port shows them as one bit (R79). -/

namespace Sys2Proof.Machine

/-- Field `op` of a request word, as a number (R75). -/
theorem requestOp_toNat (k : KWord) : (k.extractLsb' 0 2).toNat = k.toNat % 4 := by
  simp [BitVec.extractLsb'_toNat]

/-- Field `addr` of a request word, as a number (R75). -/
theorem requestAddr_toNat (k : KWord) : (k.extractLsb' 4 32).toNat = k.toNat / 16 := by
  have hk := k.isLt
  rw [BitVec.extractLsb'_toNat, Nat.shiftRight_eq_div_pow]
  omega

/-- Settles O29: the answer to a request word is a function of its `addr` and `op` fields. -/
theorem privilegeIsNotConsulted : Obligations.PrivilegeIsNotConsulted := by
  intro k k' s hop haddr
  have hop' : k.extractLsb' 0 2 = k'.extractLsb' 0 2 :=
    BitVec.eq_of_toNat_eq (by rw [requestOp_toNat, requestOp_toNat, hop])
  have haddr' : k.extractLsb' 4 32 = k'.extractLsb' 4 32 :=
    BitVec.eq_of_toNat_eq (by rw [requestAddr_toNat, requestAddr_toNat, haddr])
  rw [exec_decodeK, exec_decodeK, hop', haddr']

theorem Decision.bit_eq_zero_iff (d : Decision) : d.bit = 0 ↔ d = .allowed := by
  cases d <;> decide

theorem Decision.bit_eq_one_iff (d : Decision) : d.bit = 1 ↔ d = .fault := by
  cases d <;> decide

theorem Decision.allowed_or_fault (d : Decision) : d = .allowed ∨ d = .fault := by
  cases d <;> decide

/-- Settles O32: the step of a request word records the decision whose bit the check port shows. -/
theorem checkPortAgreesWithRequests : Obligations.CheckPortAgreesWithRequests := by
  intro k s
  refine ⟨_, exec_decodeK k s, ?_⟩
  simp only [checkPort, State.answerCheck_decision, Option.some.injEq]
  exact ⟨Decision.bit_eq_zero_iff _, Decision.bit_eq_one_iff _, Decision.allowed_or_fault _⟩

/-- What the spare operation code does: it answers `Fault` (R86, R138). -/
theorem exec_reservedOp3 (p : Priv) (a : Word) (s : State) :
    exec (.reservedOp3 p a) s = .next (s.answerCheck .fault) := rfl

/-- Settles O24: the answer is `Fault`, and answering writes no table. -/
theorem reservedOperationIsDenied : Obligations.ReservedOperationIsDenied :=
  fun p a s => ⟨s.answerCheck .fault, exec_reservedOp3 p a s, rfl, rfl, rfl⟩

end Sys2Proof.Machine
end

section
/-! The region matcher (40_region.md): what DECODE reads from a config byte, in natural numbers, and
the addresses that each match function holds. -/

namespace Sys2Proof.Machine

open Sys2Proof.Safety

/-! ### DECODE (R100) and PERMITS (R112) -/

/-- A bit of a config byte, as Safety.lean writes it. -/
theorem getLsbD_iff_div_mod (c : CfgByte) (n : Nat) :
    c.getLsbD n = true ↔ c.toNat / 2 ^ n % 2 = 1 := by
  rw [BitVec.getLsbD, Nat.testBit_eq_decide_div_mod_eq, decide_eq_true_iff]

theorem permits_eq_getLsbD (c : CfgByte) (op : Op) : permits c op = c.getLsbD (flagNumber op) := by
  cases op <;> rfl

theorem permits_iff_hasFlag (c : CfgByte) (op : Op) : permits c op = true ↔ HasFlag c op := by
  rw [permits_eq_getLsbD, getLsbD_iff_div_mod, HasFlag]

/-- Settles O21: PERMITS reads the bit that the operation numbers. -/
theorem permitsIsTheFlag : Obligations.PermitsIsTheFlag := permits_iff_hasFlag

/-- The code of a mode in field `A` (R72). -/
def modeNumber : Mode → Nat
  | .off => 0
  | .tor => 1
  | .na4 => 2
  | .napot => 3

theorem modeNumber_injective : Function.Injective modeNumber := by
  intro m m'
  cases m <;> cases m' <;> decide

theorem modeNumber_decodeMode (c : CfgByte) : modeNumber (decodeMode c) = modeCode c := by
  revert c
  decide

/-- The mode and its code in bits 4:3 determine each other. -/
theorem decodeRegion_mode_eq_iff (c : CfgByte) (m : Mode) :
    (decodeRegion c).mode = m ↔ modeCode c = modeNumber m := by
  rw [← modeNumber_decodeMode, modeNumber_injective.eq_iff, decodeRegion]

/-- Settles O6: the mode by its code, each flag by its bit, and bits 7:5 masked away. -/
theorem configByteDecode : Obligations.ConfigByteDecode := by
  intro c
  have hread : permits c .read = true ↔ c.toNat % 2 = 1 := by
    rw [permits_iff_hasFlag, HasFlag, flagNumber, pow_zero, Nat.div_one]
  exact ⟨decodeRegion_mode_eq_iff c .off, decodeRegion_mode_eq_iff c .tor,
    decodeRegion_mode_eq_iff c .na4, decodeRegion_mode_eq_iff c .napot,
    hread, permits_iff_hasFlag c .write, permits_iff_hasFlag c .execute,
    (decodeRegion_and_low c).symm⟩

/-! ### The match function by the mode bits -/

/-- The mode bits, masked in place, are the mode code times 8. -/
theorem modeCode_eq_masked (c : CfgByte) : modeCode c = (c &&& 0x18).toNat / 8 := by
  revert c
  decide

theorem modeCode_of_masked {c m : CfgByte} (h : c &&& 0x18 = m) : modeCode c = m.toNat / 8 := by
  rw [modeCode_eq_masked, h]

/-- MATCH.NAPOT in the source's literal form (R108). -/
theorem matchNapot_iff_alignDown {w : Nat} (b a : BitVec w) :
    matchNapot b a = true ↔
      alignDown (napotSize b.toNat) a.toNat = alignDown (napotSize b.toNat) b.toNat := by
  rw [matchNapot_iff_div, alignDown_eq_iff _ _ _ (napotSize_pos _)]

/-- Settles O15: the masked mode bits give the mode code, which selects the match function. -/
theorem matchFunctionsByMode : Obligations.MatchFunctionsByMode := by
  intro w c b p a
  refine ⟨fun h => ?off, fun h => ?na4, fun h => ?napot⟩
  all_goals have hcode := modeCode_of_masked h
  case off => simp [matchCfg_by_code, hcode, matchOff]
  case na4 => simpa [matchCfg_by_code, hcode] using matchNa4_iff b a
  case napot => simpa [matchCfg_by_code, hcode] using matchNapot_iff_alignDown b a

/-! ### The range of a TOR entry (R103, R104) -/

/-- An entry in mode TOR matches from its previous boundary to its own, exclusive. -/
theorem matchAt_iff_of_tor {t : Table} {i : Fin 64} (h : t.cfg[i] &&& 0x18 = 0x08) (a : Word) :
    t.matchAt i a = true ↔ prevBoundary t i ≤ a.toNat ∧ a.toNat < t.addr[i].toNat := by
  have hcode : modeCode t.cfg[i] = 1 := modeCode_of_masked h
  rw [Table.matchAt, matchCfg_by_code, hcode, ← prev_toNat]
  exact matchTor_iff _ _ _

theorem prevBoundary_zero (t : Table) : prevBoundary t 0 = 0 := rfl

theorem prevBoundary_succ (t : Table) (i : Nat) (h : i + 1 < 64) :
    prevBoundary t ⟨i + 1, h⟩ = t.addr[i].toNat := rfl

/-- Settles O16: the previous boundary is 0 for entry 0, and for entry `i + 1` the raw boundary of
entry `i`. -/
theorem torRangeOfEntry : Obligations.TorRangeOfEntry := by
  refine fun t a => ⟨fun h => ?_, fun i hi h => ?_⟩
  · have hrange := matchAt_iff_of_tor (i := 0) h a
    rw [prevBoundary_zero] at hrange
    exact hrange.trans (and_iff_right (Nat.zero_le _))
  · have hrange := matchAt_iff_of_tor (i := ⟨i + 1, hi⟩) h a
    rwa [prevBoundary_succ] at hrange

/-! ### The laws of the matcher (R117) -/

/-- R117 (a): below a boundary that is not 0 there is a last address. -/
theorem matchTor_zero_pred {w : Nat} {b : BitVec w} (h : 1 ≤ b.toNat) :
    matchTor b 0 (b - 1) = true := by
  have hone : (1 : BitVec w).toNat = 1 := Nat.mod_eq_of_lt (h.trans_lt b.isLt)
  have hpred : (b - 1).toNat = b.toNat - 1 := by
    rw [BitVec.toNat_sub_of_le (by rwa [BitVec.le_def, hone]), hone]
  exact (matchTor_iff _ _ _).mpr ⟨by simp, by omega⟩

/-- R117 (a): the interval is half-open. -/
theorem matchTor_self {w : Nat} (b p : BitVec w) : matchTor b p b = false := by
  simp [matchTor]

/-- R117 (b): the four bytes from the literal boundary. -/
theorem matchNa4_iff_offset {w : Nat} (b a : BitVec w) :
    matchNa4 b a = true ↔ a.toNat = b.toNat ∨ a.toNat = b.toNat + 1 ∨ a.toNat = b.toNat + 2 ∨
      a.toNat = b.toNat + 3 := by
  rw [matchNa4_iff]
  omega

/-- The numbers with the quotient of `x` are one block of `size`, from `x` aligned down. -/
theorem div_eq_iff_mem_block {size : Nat} (h : 0 < size) (x y : Nat) :
    y / size = x / size ↔ alignDown size x ≤ y ∧ y < alignDown size x + size := by
  have hbase : alignDown size x = x / size * size := Nat.div_mul_self_eq_mod_sub_self.symm
  rw [hbase, Nat.div_eq_iff h]
  omega

/-- R117 (c): the block of the boundary. -/
theorem matchNapot_iff_mem_block {w : Nat} (b a : BitVec w) :
    matchNapot b a = true ↔
      alignDown (napotSize b.toNat) b.toNat ≤ a.toNat ∧
      a.toNat < alignDown (napotSize b.toNat) b.toNat + napotSize b.toNat := by
  rw [matchNapot_iff_div, div_eq_iff_mem_block (napotSize_pos _)]

/-- R117 (e): no other bit of the config byte is read. -/
theorem permits_congr_hasFlag {c c' : CfgByte} {op : Op} (h : HasFlag c op ↔ HasFlag c' op) :
    permits c op = permits c' op := by
  rwa [Bool.eq_iff_iff, permits_iff_hasFlag, permits_iff_hasFlag]

/-- Settles O17: the five laws, one lemma each; that OFF never matches is its definition. -/
theorem matcherLaws : Obligations.MatcherLaws := fun _ b a =>
  ⟨matchTor_zero_pred, matchTor_self b 0, matchNa4_iff_offset b a, matchNapot_iff_mem_block b a, rfl,
    fun _ _ _ => permits_congr_hasFlag⟩

end Sys2Proof.Machine
end

section
/-! The resolver (41_resolver.md): the scan of R131 reaches the least matching entry with the previous
boundary of R132, so it decides as the find-first of R133, and that is granting as R16 defines it. -/

namespace Sys2Proof.Machine

open Sys2Proof.Safety

/-! ### The scan -/

theorem Table.prev_succ (t : Table) (n : Nat) (h : n + 1 < 64) :
    t.prev ⟨n + 1, h⟩ = t.addr[n] := rfl

/-- The scan at an entry, with its previous boundary carried: the entry decides if it matches, and its
raw boundary is carried on if it does not (R131, R132). -/
theorem scan_drop (t : Table) (i : Fin 64) (a : Word) (op : Op) :
    scan op a (t.entries.drop i) (t.prev i) =
      if t.matchAt i a then (if permits t.cfg[i] op then .allowed else .fault)
      else scan op a (t.entries.drop (i + 1)) t.addr[i] := by
  rw [List.drop_eq_getElem_cons (by simp), Table.entries_getElem]
  rfl

/-- The scan passes the entries that do not match. -/
theorem resolve_eq_scan_drop {t : Table} {a : Word} (op : Op) (i : Fin 64)
    (h : ∀ j : Fin 64, j.val < i.val → ¬ Matches t j a) :
    resolve t a op = scan op a (t.entries.drop i) (t.prev i) := by
  obtain ⟨n, hn⟩ := i
  induction n with
  | zero => rfl
  | succ n ih =>
    have hpass : ¬ t.matchAt ⟨n, by omega⟩ a = true :=
      (matchAt_iff _ _ _).not.mpr (h _ n.lt_succ_self)
    rw [ih (by omega) (fun j hj => h j (Nat.lt_succ_of_lt hj)), scan_drop, if_neg hpass,
      Table.prev_succ]
    rfl

/-- R134: the flag of the least matching entry decides. -/
theorem resolve_of_firstMatch {t : Table} {i : Fin 64} {a : Word} (h : FirstMatch t i a) (op : Op) :
    resolve t a op = if permits t.cfg[i] op then .allowed else .fault := by
  obtain ⟨hmatch, hleast⟩ := h
  rw [resolve_eq_scan_drop op i hleast, scan_drop, if_pos ((matchAt_iff _ _ _).mpr hmatch)]

/-- R139: a scan that passes every entry denies. -/
theorem resolve_of_noMatch {t : Table} {a : Word} (h : ∀ i, ¬ Matches t i a) (op : Op) :
    resolve t a op = .fault := by
  have hend : t.entries.drop ((63 : Fin 64) + 1) = [] := List.drop_eq_nil_of_le (by simp)
  rw [resolve_eq_scan_drop op 63 (fun j _ => h j), scan_drop,
    if_neg ((matchAt_iff _ _ _).not.mpr (h 63)), hend, scan]

/-- The scan and the find-first over the match vector decide alike (R133). -/
theorem resolve_eq_resolveByVector (t : Table) (a : Word) (op : Op) :
    resolve t a op = resolveByVector t a op := by
  rw [resolveByVector]
  cases h : t.firstMatch a with
  | none => exact resolve_of_noMatch ((firstMatch_eq_none_iff t a).mp h) op
  | some i => exact resolve_of_firstMatch ((firstMatch_eq_some_iff t a i).mp h) op

/-! ### The decision, as R16 defines it -/

theorem resolve_eq_allowed_iff_of_firstMatch {t : Table} {i : Fin 64} {a : Word}
    (h : FirstMatch t i a) (op : Op) : resolve t a op = .allowed ↔ HasFlag t.cfg[i] op := by
  rw [resolve_of_firstMatch h, ← permits_iff_hasFlag]
  simp

/-- The resolver computes the reference function of R16. -/
theorem resolve_eq_allowed_iff (t : Table) (a : Word) (op : Op) :
    resolve t a op = .allowed ↔ Grants t a op := by
  simp only [Grants, ← firstMatch_eq_some_iff, ← permits_iff_hasFlag]
  rw [resolve_eq_resolveByVector, resolveByVector]
  cases t.firstMatch a with
  | none => simp
  | some i => simp

theorem resolve_eq_fault_iff (t : Table) (a : Word) (op : Op) :
    resolve t a op = .fault ↔ ¬ Grants t a op := by
  rw [← resolve_eq_allowed_iff]
  cases resolve t a op <;> decide

/-- Settles O23: a request answers with the decision of the scan, which allows what R16 grants. -/
theorem checkDecidesByFirstMatch : Obligations.CheckDecidesByFirstMatch := by
  intro op p a s
  refine ⟨_, exec_request op p a s, fun hgrants => ?_, fun hdenies => ?_, rfl, rfl⟩
  · rw [State.answerCheck_decision, (resolve_eq_allowed_iff _ _ _).mpr hgrants]
  · rw [State.answerCheck_decision, (resolve_eq_fault_iff _ _ _).mpr hdenies]

/-! ### No match (R139) -/

/-- An entry in mode OFF matches no address (R102). -/
theorem not_matches_of_off {t : Table} {i : Fin 64} (h : modeCode t.cfg[i] = 0) (a : Word) :
    ¬ Matches t i a := by
  rw [← matchAt_iff, Table.matchAt, matchCfg_by_code, if_pos h]
  exact Bool.false_ne_true

/-- Settles O27: a request that no entry matches is denied, and no entry that is OFF matches. -/
theorem noMatchIsDenied : Obligations.NoMatchIsDenied := by
  intro op p a s
  have hdenied : (∀ i, ¬ Matches s.active i a) →
      ∃ t, exec (request op p a) s = .next t ∧ t.decision = some .fault := by
    intro h
    refine ⟨_, exec_request op p a s, ?_⟩
    rw [State.answerCheck_decision, resolve_of_noMatch h]
  exact ⟨hdenied, fun hoff => hdenied (fun i => not_matches_of_off (hoff i) a)⟩

/-! ### The first match is final (R134) -/

/-- The tables hold the same registers in the entries up to the `n`-th. -/
def AgreeUpTo (n : Nat) (t' t : Table) : Prop :=
  ∀ j : Fin 64, j.val ≤ n → t'.cfg[j] = t.cfg[j] ∧ t'.addr[j] = t.addr[j]

theorem AgreeUpTo.mono {m n : Nat} {t' t : Table} (h : AgreeUpTo n t' t) (hmn : m ≤ n) :
    AgreeUpTo m t' t :=
  fun j hj => h j (hj.trans hmn)

theorem AgreeUpTo.prev_eq {t' t : Table} {i : Fin 64} (h : AgreeUpTo i t' t) :
    t'.prev i = t.prev i := by
  obtain ⟨n, hn⟩ := i
  cases n with
  | zero => rfl
  | succ n => exact (h ⟨n, by omega⟩ n.le_succ).2

/-- A match depends on no later entry. -/
theorem AgreeUpTo.matches_iff {t' t : Table} {i : Fin 64} (h : AgreeUpTo i t' t) (a : Word) :
    Matches t' i a ↔ Matches t i a := by
  obtain ⟨hcfg, haddr⟩ := h i le_rfl
  rw [← matchAt_iff, ← matchAt_iff, Table.matchAt, Table.matchAt, hcfg, haddr, h.prev_eq]

theorem AgreeUpTo.firstMatch {t' t : Table} {i : Fin 64} {a : Word} (h : AgreeUpTo i t' t)
    (hfirst : FirstMatch t i a) : FirstMatch t' i a := by
  obtain ⟨hmatch, hleast⟩ := hfirst
  exact ⟨(h.matches_iff a).mpr hmatch,
    fun j hj => ((h.mono hj.le).matches_iff a).not.mpr (hleast j hj)⟩

/-- Settles O26: the first match is the first match of every table that agrees up to it, and its flag
decides. -/
theorem firstMatchIsFinal : Obligations.FirstMatchIsFinal := by
  intro t t' i a op hfirst hagree
  have hfirst' : FirstMatch t' i a := AgreeUpTo.firstMatch hagree hfirst
  refine ⟨resolve_eq_allowed_iff_of_firstMatch hfirst op, ?_⟩
  rw [resolve_of_firstMatch hfirst', resolve_of_firstMatch hfirst, (hagree i le_rfl).1]

/-! ### What a request reads and writes (R130, R141) -/

/-- Settles O33: a request word answers with a function of the word and the active table, and
answering writes no table. -/
theorem requestReadsOnlyActiveTable : Obligations.RequestReadsOnlyActiveTable := by
  intro k s s' hactive
  refine ⟨_, _, exec_decodeK k s, exec_decodeK k s', ?_, ?_, rfl, rfl, rfl, rfl⟩
  · rw [State.answerCheck_decision, State.answerCheck_decision, hactive]
  · rw [State.answerCheck_decision]
    exact Option.some_ne_none _

end Sys2Proof.Machine
end

section
/-! The configuration port (42_table_port.md): what each command does to the two tables and shows on
`rdata`. -/

namespace Sys2Proof.Machine

/-! ### The commands as operations on the state -/

section
variable (r : Reg) (x : Idx) (v : Word) (s : State)

/-- NOP only answers (R150). -/
theorem exec_nop : exec (.nop x v) s = .next (s.answerConfig 0) := rfl

/-- WR stages a register and answers 0 (R152). -/
theorem exec_wr : exec (.wr r v) s = .next ((s.stage r v).answerConfig 0) := rfl

/-- RDS answers with the staged register (R154). -/
theorem exec_rds : exec (.rds r v) s = .next (s.answerConfig (s.staging.readReg r)) := rfl

/-- RDA answers with the active register (R155). -/
theorem exec_rda : exec (.rda r v) s = .next (s.answerConfig (s.active.readReg r)) := rfl

/-- COMMIT publishes the staging table and answers 0, whatever its fields hold (R157). -/
theorem exec_commit : exec (.commit x v) s = .next (s.publish.answerConfig 0) := rfl

/-- The reserved commands are NOP (R88, R159). -/
theorem exec_reservedCmd5 : exec (.reservedCmd5 x v) s = exec (.nop x v) s := rfl
theorem exec_reservedCmd6 : exec (.reservedCmd6 x v) s = exec (.nop x v) s := rfl
theorem exec_reservedCmd7 : exec (.reservedCmd7 x v) s = exec (.nop x v) s := rfl

end

/-! ### WR (R152) -/

/-- A config register takes the low 8 bits of `wdata` (R84). -/
theorem Table.writeReg_cfg_same_toNat (t : Table) (i : Fin 64) (v : Word) :
    (t.writeReg (.cfg i) v).cfg[i].toNat = v.toNat % 2 ^ 8 := by
  rw [Table.writeReg_cfg_get, if_pos rfl, BitVec.toNat_setWidth]

theorem Table.writeReg_cfg_other (t : Table) {i j : Fin 64} (v : Word) (h : j ≠ i) :
    (t.writeReg (.cfg i) v).cfg[j] = t.cfg[j] := by
  rw [Table.writeReg_cfg_get, if_neg h.symm]

/-- A boundary register takes all of `wdata` (R84). -/
theorem Table.writeReg_addr_same (t : Table) (i : Fin 64) (v : Word) :
    (t.writeReg (.addr i) v).addr[i] = v := by
  rw [Table.writeReg_addr_get, if_pos rfl]

theorem Table.writeReg_addr_other (t : Table) {i j : Fin 64} (v : Word) (h : j ≠ i) :
    (t.writeReg (.addr i) v).addr[j] = t.addr[j] := by
  rw [Table.writeReg_addr_get, if_neg h.symm]

/-- Settles O34: WR stages one register; a write to a config register leaves the other config
registers and all boundary registers alone, and the other way round. -/
theorem wrStagesOneRegister : Obligations.WrStagesOneRegister := by
  refine fun i v s => ⟨⟨_, exec_wr (.cfg i) v s, ?cfgSame, ?cfgOther, fun _ => rfl, rfl, rfl⟩,
    ⟨_, exec_wr (.addr i) v s, ?addrSame, ?addrOther, fun _ => rfl, rfl, rfl⟩⟩
  case cfgSame => exact s.staging.writeReg_cfg_same_toNat i v
  case cfgOther => exact fun _ => s.staging.writeReg_cfg_other v
  case addrSame => exact s.staging.writeReg_addr_same i v
  case addrOther => exact fun _ => s.staging.writeReg_addr_other v

/-! ### RDS and RDA (R154, R155) -/

/-- A config register is shown with zeros above its 8 bits (R85). -/
theorem Table.readReg_cfg_toNat (t : Table) (i : Fin 64) :
    (t.readReg (.cfg i)).toNat = t.cfg[i].toNat :=
  BitVec.toNat_setWidth_of_le (by decide)

/-- A boundary register is shown whole (R85). -/
theorem Table.readReg_addr (t : Table) (i : Fin 64) : t.readReg (.addr i) = t.addr[i] := rfl

/-- Settles O36: RDS and RDA answer with a register of their table, and answering writes no table. -/
theorem readsShowTheRegister : Obligations.ReadsShowTheRegister := fun i v s =>
  ⟨⟨_, exec_rds (.cfg i) v s, s.staging.readReg_cfg_toNat i, rfl, rfl⟩,
    ⟨_, exec_rds (.addr i) v s, s.staging.readReg_addr i, rfl, rfl⟩,
    ⟨_, exec_rda (.cfg i) v s, s.active.readReg_cfg_toNat i, rfl, rfl⟩,
    ⟨_, exec_rda (.addr i) v s, s.active.readReg_addr i, rfl, rfl⟩⟩

/-! ### COMMIT (R157) -/

/-- Settles O37: after COMMIT the active table is the staging table, register by register. -/
theorem commitPublishesEveryRegister : Obligations.CommitPublishesEveryRegister := by
  intro x v s
  refine ⟨_, exec_commit x v s, fun i => ?_, rfl, rfl⟩
  rw [State.answerConfig_active, State.publish_active]
  exact ⟨rfl, rfl⟩

/-! ### NOP and the reserved commands (R150, R159) -/

/-- NOP completes, writes no table and shows 0. -/
theorem exec_nop_frame (x : Idx) (v : Word) (s : State) :
    ∃ t, exec (.nop x v) s = .next t ∧ t.active = s.active ∧ t.staging = s.staging ∧ t.rdata = 0 :=
  ⟨_, exec_nop x v s, rfl, rfl, rfl⟩

/-- Settles O38: NOP only answers 0, and the reserved commands do what NOP does. -/
theorem nopAndReservedCommandsDoNothing : Obligations.NopAndReservedCommandsDoNothing := by
  intro x v s
  rw [exec_reservedCmd5, exec_reservedCmd6, exec_reservedCmd7]
  have hnop := exec_nop_frame x v s
  exact ⟨hnop, hnop, hnop, hnop, rfl, rfl, rfl⟩

end Sys2Proof.Machine
end

section
/-! The causes of a denied request (R171): an operation code is the spare one or names an operation, and
a request for an operation is denied by a missing match or by the flag of the first match. -/

namespace Sys2Proof.Machine

open Sys2Proof.Safety

/-! ### Operation codes (R76) -/

/-- An operation code is the spare one or the number of an operation. -/
theorem opCode_cases (code : BitVec 2) : code.toNat = 3 ∨ ∃ op, code.toNat = flagNumber op :=
  match code with
  | 0 => .inr ⟨.read, rfl⟩
  | 1 => .inr ⟨.write, rfl⟩
  | 2 => .inr ⟨.execute, rfl⟩
  | 3 => .inl rfl

theorem flagNumber_ne_spare (op : Op) : flagNumber op ≠ 3 := by
  cases op <;> decide

theorem flagNumber_injective : Function.Injective flagNumber := by
  intro op op'
  cases op <;> cases op' <;> decide

/-- The spare code is denied without a look at the table (R138). -/
theorem resolveCode_spare (t : Table) (a : Word) {code : BitVec 2} (h : code.toNat = 3) :
    resolveCode t a code = .fault := by
  obtain rfl : code = 3 := BitVec.eq_of_toNat_eq h
  rfl

/-- The code of an operation asks for that operation. -/
theorem resolveCode_of_flagNumber (t : Table) (a : Word) {code : BitVec 2} {op : Op}
    (h : code.toNat = flagNumber op) : resolveCode t a code = resolve t a op := by
  obtain rfl : code = BitVec.ofNat 2 (flagNumber op) :=
    BitVec.eq_of_toNat_eq (by rw [h]; cases op <;> rfl)
  cases op <;> rfl

/-! ### Why the resolver denies -/

/-- NOMATCH and DENIED of R171, for one operation. -/
theorem resolve_eq_fault_iff_causes (t : Table) (a : Word) (op : Op) :
    resolve t a op = .fault ↔
      (∀ i, ¬ Matches t i a) ∨ ∃ i, FirstMatch t i a ∧ ¬ HasFlag t.cfg[i] op := by
  rw [← firstMatch_eq_none_iff]
  simp only [← firstMatch_eq_some_iff, ← permits_iff_hasFlag]
  rw [resolve_eq_resolveByVector, resolveByVector]
  cases t.firstMatch a with
  | none => simp
  | some i => simp

/-- The three causes of R171, for an operation code. -/
theorem resolveCode_eq_fault_iff (t : Table) (a : Word) (code : BitVec 2) :
    resolveCode t a code = .fault ↔
      code.toNat = 3 ∨ (code.toNat ≠ 3 ∧ ∀ i, ¬ Matches t i a) ∨
      ∃ op i, code.toNat = flagNumber op ∧ FirstMatch t i a ∧ ¬ HasFlag t.cfg[i] op := by
  obtain hspare | ⟨op, hop⟩ := opCode_cases code
  · exact iff_of_true (resolveCode_spare t a hspare) (.inl hspare)
  · rw [resolveCode_of_flagNumber t a hop, resolve_eq_fault_iff_causes, hop]
    simp [flagNumber_ne_spare, flagNumber_injective.eq_iff]

/-- Field `addr` of a request word, as the word that R75 numbers. -/
theorem requestAddr_eq_ofNat (k : KWord) :
    k.extractLsb' 4 32 = BitVec.ofNat 32 (k.toNat / 16) := by
  rw [← requestAddr_toNat, BitVec.ofNat_toNat, BitVec.setWidth_eq]

/-- Settles O28: the answer is the decision on the word's `op` and `addr` fields, which is `Fault` for
the three causes only, and a decision that is not `Fault` is `Allowed`. -/
theorem causesOfFault : Obligations.CausesOfFault := by
  intro k s
  refine ⟨_, exec_decodeK k s, ?_⟩
  simp only [State.answerCheck_decision, Option.some.injEq, ne_eq, requestAddr_eq_ofNat,
    ← requestOp_toNat]
  exact ⟨resolveCode_eq_fault_iff _ _ _, (Decision.allowed_or_fault _).resolve_right⟩

end Sys2Proof.Machine
end

section
/-! A request and a command of one moment (R61 (e), R176): two steps, the request's first. -/

namespace Sys2Proof.Machine

/-- A step runs the instruction that it fetches. -/
theorem step_of_fetch_run {s s' : State} {i : Instr} (h : fetch s = (.run i, s')) :
    step s = exec i s' := by
  rw [step, h]

/-- A request with a command beside it: the request is answered, and the command is left. -/
theorem step_both {s : State} {k : KWord} {c : CWord} {rest : List Input}
    (h : s.inputs = .ports (some k) (some c) :: rest) :
    step s = .next (State.answerCheck { s with inputs := .ports none (some c) :: rest }
      (resolveCode s.active (k.extractLsb' 4 32) (k.extractLsb' 0 2))) :=
  (step_of_fetch_run (fetch_both s rest k c h)).trans (exec_decodeK k _)

/-- A command with no request beside it. -/
theorem step_command {s : State} {c : CWord} {rest : List Input}
    (h : s.inputs = .ports none (some c) :: rest) :
    step s = exec (decodeC c) { s with inputs := rest } :=
  step_of_fetch_run (fetch_command s rest c h)

/-- Every instruction completes, and takes no input. -/
theorem exec_completes (i : Instr) (s : State) :
    ∃ t, exec i s = .next t ∧ t.inputs = s.inputs := by
  cases i <;> exact ⟨_, rfl, rfl⟩

/-- Command code 4 is COMMIT (R82). -/
theorem decodeC_of_commitCode {c : CWord} (h : c.toNat % 8 = 4) :
    decodeC c = .commit (c.extractLsb' 3 7) (c.extractLsb' 10 32) := by
  have hcmd : c.extractLsb' 0 3 = 4 :=
    BitVec.eq_of_toNat_eq (by simpa [BitVec.extractLsb'_toNat] using h)
  rw [decodeC_eq_commandOfCode, hcmd]
  rfl

/-- Settles O10: the first step answers the request from the active table and leaves the command
pending; the second runs the command on the tables of before, so a COMMIT publishes what was staged. -/
theorem sameStepRequestIsFirst : Obligations.SameStepRequestIsFirst := by
  intro s k c rest hinputs
  obtain ⟨u, hu, hrest⟩ := exec_completes (decodeC c) _
  refine ⟨_, u, step_both hinputs, (step_command rfl).trans hu, rfl, rfl, rfl, hu, hrest,
    fun hcommit => ?_⟩
  obtain ⟨hactive, -⟩ := exec_tables _ _ _ hu
  rwa [decodeC_of_commitCode hcommit] at hactive

end Sys2Proof.Machine
end

section
/-! Words and instructions determine each other (30_encoding.md sections 2 to 4): each format's decoder
and encoder go through the code that selects the row and the fields beside it. -/

namespace Sys2Proof

open Sys2Proof.Machine

/-! ### Format G -/

/-- The MATCH row of a mode code (R72). -/
def matchOfCode (mode : BitVec 2) (f : CfgFlags) : Instr :=
  match mode.getLsbD 1, mode.getLsbD 0 with
  | false, false => .matchOff f
  | false, true => .matchTor f
  | true, false => .matchNa4 f
  | true, true => .matchNapot f

theorem decodeWord_encodeG (f : CfgFlags) (mode : BitVec 2) :
    decodeWord (encodeG f mode) = matchOfCode mode f := by
  obtain ⟨u, x, w, r⟩ := f
  revert u x w r mode
  unfold encodeG
  decide

theorem encode_decodeG (g : CfgByte) : encode (decodeG g) = .g g := by
  revert g
  decide

/-! ### Formats K and C -/

theorem encode_requestOfCode (op : BitVec 2) (p : Priv) (a : Word) :
    encode (requestOfCode op p a) = encodeK a p op :=
  match op with
  | 0 => rfl
  | 1 => rfl
  | 2 => rfl
  | 3 => rfl

theorem encode_commandOfCode (cmd : BitVec 3) (x : Idx) (v : Word) :
    encode (commandOfCode cmd x v) = encodeC v x cmd := by
  have hreg := encodeReg_decodeReg x
  match cmd with
  | 0 => rfl
  | 1 => exact congrArg (encodeC v · 1) hreg
  | 2 => exact congrArg (encodeC v · 2) hreg
  | 3 => exact congrArg (encodeC v · 3) hreg
  | 4 => rfl
  | 5 => rfl
  | 6 => rfl
  | 7 => rfl

theorem encodePriv_decodePriv (code : BitVec 2) :
    encodePriv (decodePriv (code.getLsbD 1) (code.getLsbD 0)) = code := by
  revert code
  decide

/-- A word is the concatenation of its three fields. -/
theorem append_extractLsb'_fields {m n l : Nat} (x : BitVec (m + n + l)) :
    x.extractLsb' (l + n) m ++ x.extractLsb' l n ++ x.extractLsb' 0 l = x := by
  rw [BitVec.extractLsb'_append_extractLsb'_eq_extractLsb' (by omega),
    BitVec.extractLsb'_append_extractLsb'_eq_extractLsb' (by omega), BitVec.extractLsb'_eq_self]

theorem encode_decodeK (k : KWord) : encode (decodeK k) = .k k := by
  rw [decodeK_eq_requestOfCode, encode_requestOfCode, encodeK, encodePriv_decodePriv]
  exact congrArg FormatWord.k (append_extractLsb'_fields (m := 32) (n := 2) (l := 2) k)

theorem encode_decodeC (c : CWord) : encode (decodeC c) = .c c := by
  rw [decodeC_eq_commandOfCode, encode_commandOfCode, encodeC]
  exact congrArg FormatWord.c (append_extractLsb'_fields (m := 32) (n := 7) (l := 3) c)

/-! ### The round trips -/

theorem encode_decodeWord (w : FormatWord) : encode (decodeWord w) = w := by
  cases w with
  | g w => exact encode_decodeG w
  | k w => exact encode_decodeK w
  | c w => exact encode_decodeC w

theorem decodeWord_encode (i : Instr) : decodeWord (encode i) = i := by
  cases i with
  | checkR p a => exact decodeK_requestFields a p 0
  | checkW p a => exact decodeK_requestFields a p 1
  | checkX p a => exact decodeK_requestFields a p 2
  | reservedOp3 p a => exact decodeK_requestFields a p 3
  | nop x v => exact decodeC_commandFields v x 0
  | wr r v =>
    exact (decodeC_commandFields v _ 1).trans (congrArg (Instr.wr · v) (decodeReg_encodeReg r))
  | rds r v =>
    exact (decodeC_commandFields v _ 2).trans (congrArg (Instr.rds · v) (decodeReg_encodeReg r))
  | rda r v =>
    exact (decodeC_commandFields v _ 3).trans (congrArg (Instr.rda · v) (decodeReg_encodeReg r))
  | commit x v => exact decodeC_commandFields v x 4
  | reservedCmd5 x v => exact decodeC_commandFields v x 5
  | reservedCmd6 x v => exact decodeC_commandFields v x 6
  | reservedCmd7 x v => exact decodeC_commandFields v x 7
  | matchOff f => exact decodeWord_encodeG f 0
  | matchTor f => exact decodeWord_encodeG f 1
  | matchNa4 f => exact decodeWord_encodeG f 2
  | matchNapot f => exact decodeWord_encodeG f 3

/-- Settles O1: an instruction's word has the code of its row and its fields, and each decoder reads
both back. -/
theorem decodeEncodeRoundTrip : Obligations.DecodeEncodeRoundTrip := decodeWord_encode

/-- Settles O2: a word of each format is the concatenation of the fields that its decoder reads. -/
theorem encodeDecodeRoundTrip : Obligations.EncodeDecodeRoundTrip := encode_decodeWord

/-- Settles O3: each word is the word of its instruction. -/
theorem wordsOfTheSpecDecode : Obligations.WordsOfTheSpecDecode := by
  unfold Obligations.WordsOfTheSpecDecode
  decide

/-! ### Words laid out in bytes (log entry 8) -/

theorem toBytes_length (n w : Nat) : (toBytes n w).length = n := by
  induction n generalizing w with
  | zero => rfl
  | succ n ih => simp [toBytes, ih]

/-- The bytes of a number hold it up to their width. -/
theorem ofBytes_toBytes (n w : Nat) : ofBytes (toBytes n w) = w % 256 ^ n := by
  induction n generalizing w with
  | zero => simp [toBytes, ofBytes, Nat.mod_one]
  | succ n ih =>
    rw [toBytes, ofBytes, ih, BitVec.toNat_ofNat, pow_succ' 256, Nat.mod_mul]

/-- A word fits the width of its format. -/
theorem FormatWord.toNat_lt (w : FormatWord) : w.toNat < 2 ^ w.format.bits := by
  cases w with
  | g w => exact w.isLt
  | k w => exact w.isLt
  | c w => exact w.isLt

/-- The bits of a format fit its bytes. -/
theorem Format.two_pow_bits_le (f : Format) : 2 ^ f.bits ≤ 256 ^ f.bytes := by
  cases f <;> decide

theorem FormatWord.word_toNat (w : FormatWord) : w.format.word w.toNat = w := by
  cases w with
  | g w => exact congrArg FormatWord.g (BitVec.ofNat_toNat 8 w)
  | k w => exact congrArg FormatWord.k (BitVec.ofNat_toNat 36 w)
  | c w => exact congrArg FormatWord.c (BitVec.ofNat_toNat 42 w)

/-- The layout of a word decodes as the word. -/
theorem decode_layout (w : FormatWord) : decode w.format w.layout = .ok (decodeWord w) := by
  have hbits := w.toNat_lt
  have hvalue : ofBytes w.layout = w.toNat := by
    rw [FormatWord.layout, ofBytes_toBytes,
      Nat.mod_eq_of_lt (hbits.trans_le w.format.two_pow_bits_le)]
  have hlength : w.layout.length = w.format.bytes := toBytes_length _ _
  rw [decode, if_neg (not_not.mpr hlength), hvalue, if_neg hbits.not_ge, w.word_toNat]

/-- Settles O7: the layout of a word holds its number, and `decode` tests the length and then the bits
above the width. -/
theorem bytesDecodeOrAreRejected : Obligations.BytesDecodeOrAreRejected := by
  refine ⟨fun i => ?_, fun f bs => ?_⟩
  · rw [decode_layout, decodeWord_encode]
  · by_cases hlength : bs.length = f.bytes
    · by_cases hpadding : 2 ^ f.bits ≤ ofBytes bs <;> simp [decode, hlength, hpadding]
    · simp [decode, hlength]

end Sys2Proof
end

section
/-! The match functions at a given width (40_region.md sections 3 to 5), the MATCH rows, and what a
boundary has an effect on (41_resolver.md section 3). -/

namespace Sys2Proof.Machine

open Sys2Proof.Safety

/-! ### MATCH.NAPOT at a given width (R109, R111) -/

/-- The literal mask of R73 drops bits 1:0, and every bit above bit 31. -/
theorem and_napotMask (b : Nat) : b &&& 0xFFFFFFFC = b / 4 % 2 ^ 30 * 4 := by
  have hhigh : (b &&& 0xFFFFFFFC) / 2 ^ 2 = b / 2 ^ 2 % 2 ^ 30 := by
    rw [Nat.and_div_two_pow]
    exact Nat.and_two_pow_sub_one_eq_mod _ 30
  have hlow : (b &&& 0xFFFFFFFC) % 2 ^ 2 = 0 := by
    rw [Nat.and_mod_two_pow]
    exact Nat.and_zero _
  omega

theorem napotSize_eq (b : Nat) : napotSize b = 2 ^ (b / 4 % 2 ^ 30 * 4 + 2) := by
  rw [napotSize, and_napotMask]

/-- A boundary that fits 32 bits is smaller than its block. -/
theorem lt_napotSize {b : Nat} (h : b < 2 ^ 32) : b < napotSize b := by
  have hquot : b / 4 % 2 ^ 30 = b / 4 := Nat.mod_eq_of_lt (by omega)
  have hpow : b / 4 * 4 < 2 ^ (b / 4 * 4) := Nat.lt_two_pow_self
  rw [napotSize_eq, hquot, pow_add]
  omega

/-- Up to 32 bits the block of a boundary starts at 0 (R111). -/
theorem matchNapot_iff_lt {w : Nat} (hw : w ≤ 32) (b a : BitVec w) :
    matchNapot b a = true ↔ a.toNat < napotSize b.toNat := by
  have hb : b.toNat < 2 ^ 32 := b.isLt.trans_le (Nat.pow_le_pow_right (by decide) hw)
  rw [matchNapot_iff_div, Nat.div_eq_of_lt (lt_napotSize hb)]
  exact Nat.div_eq_zero_iff_lt (napotSize_pos _)

/-- Above 32 bits the boundary `2^32` has the exponent of boundary 0 (R111). -/
theorem matchNapot_iff_of_eq_two_pow {w : Nat} {b : BitVec w} (hb : b.toNat = 2 ^ 32)
    (a : BitVec w) : matchNapot b a = true ↔ 2 ^ 32 ≤ a.toNat ∧ a.toNat ≤ 2 ^ 32 + 3 := by
  have hsize : napotSize (2 ^ 32) = 4 := by simp [napotSize_eq]
  rw [matchNapot_iff_div, hb, hsize]
  omega

/-- Settles O19: the block starts at the boundary aligned down, which is 0 up to 32 bits and `2^32` for
the boundary `2^32`. -/
theorem napotAtOtherWidths : Obligations.NapotAtOtherWidths :=
  ⟨fun _ b a hw => matchNapot_iff_lt hw b a, fun _ _ a _ hb => matchNapot_iff_of_eq_two_pow hb a⟩

/-- The closed form of R109. -/
theorem matchNapot_iff_closedForm (b a : Word) :
    matchNapot b a = true ↔ 32 ≤ b.toNat ∨ a.toNat < 2 ^ (4 * (b.toNat / 4 % 8) + 2) := by
  rw [matchNapot_iff_lt le_rfl, napotSize_eq]
  have ha : a.toNat < 2 ^ 32 := a.isLt
  have hb : b.toNat < 2 ^ 32 := b.isLt
  by_cases hlarge : 32 ≤ b.toNat
  · have hpow : 2 ^ 32 ≤ 2 ^ (b.toNat / 4 % 2 ^ 30 * 4 + 2) :=
      Nat.pow_le_pow_right (by decide) (by omega)
    exact iff_of_true (ha.trans_le hpow) (.inl hlarge)
  · have hexponent : b.toNat / 4 % 2 ^ 30 * 4 = 4 * (b.toNat / 4 % 8) := by omega
    rw [hexponent, or_iff_right hlarge]

/-- Settles O18: the block starts at 0, and its size depends on the boundary above its low two bits. -/
theorem napotClosedForm : Obligations.NapotClosedForm := by
  refine fun b a => ⟨matchNapot_iff_closedForm b a, fun b' hb' => ?_⟩
  rw [Bool.eq_iff_iff, matchNapot_iff_lt le_rfl, matchNapot_iff_lt le_rfl, napotSize_eq,
    napotSize_eq, hb']

/-- Settles O20: the top address is below no boundary, among the four bytes of the last four
boundaries only, and above every NAPOT block of a boundary below 32. -/
theorem topAddressCoverage : Obligations.TopAddressCoverage := by
  intro b p a ha
  have hb : b.toNat < 2 ^ 32 := b.isLt
  refine ⟨?tor, ?na4, ?napot⟩
  case tor =>
    rw [← Bool.not_eq_true, matchTor_iff]
    omega
  case na4 =>
    rw [matchNa4_iff]
    omega
  case napot =>
    have hpow : 2 ^ (4 * (b.toNat / 4 % 8) + 2) ≤ 2 ^ 30 :=
      Nat.pow_le_pow_right (by decide) (by omega)
    rw [matchNapot_iff_closedForm]
    omega

/-! ### The MATCH rows -/

section
variable (f : CfgFlags) (s : State)

theorem exec_matchOff : exec (.matchOff f) s = .next (s.answerMatch false) := rfl

theorem exec_matchTor :
    exec (.matchTor f) s = .next (s.answerMatch
      (decide (prevBoundary s.active s.probe.entry ≤ s.probe.addr.toNat ∧
        s.probe.addr.toNat < s.active.addr[s.probe.entry].toNat))) := by
  simp only [← prev_toNat, ← matchTor_iff, Bool.decide_eq_true]
  rfl

theorem exec_matchNa4 :
    exec (.matchNa4 f) s = .next (s.answerMatch
      (decide (s.active.addr[s.probe.entry].toNat ≤ s.probe.addr.toNat ∧
        s.probe.addr.toNat < s.active.addr[s.probe.entry].toNat + 4))) := by
  simp only [← matchNa4_iff, Bool.decide_eq_true]
  rfl

theorem exec_matchNapot :
    exec (.matchNapot f) s = .next (s.answerMatch
      (decide (alignDown (napotSize s.active.addr[s.probe.entry].toNat) s.probe.addr.toNat =
        alignDown (napotSize s.active.addr[s.probe.entry].toNat)
          s.active.addr[s.probe.entry].toNat))) := by
  simp only [← matchNapot_iff_alignDown, Bool.decide_eq_true]
  rfl

end

/-- Settles O14: each row answers with its match function on the operands of the probed entry. -/
theorem matcherRowsComplete : Obligations.MatcherRowsComplete := fun f s =>
  ⟨exec_matchOff f s, exec_matchTor f s, exec_matchNa4 f s, exec_matchNapot f s⟩

/-! ### What a boundary has an effect on (R145 (f)) -/

/-- In mode OFF the match function reads no boundary. -/
theorem matchCfg_of_off {w : Nat} {g : CfgByte} (h : modeCode g = 0) (b p a : BitVec w) :
    matchCfg g b p a = false := by
  rw [matchCfg_by_code, if_pos h, matchOff]

/-- The match function reads the previous boundary in mode TOR only. -/
theorem matchCfg_prev_of_not_tor {w : Nat} {g : CfgByte} (h : modeCode g ≠ 1)
    (b p p' a : BitVec w) : matchCfg g b p a = matchCfg g b p' a := by
  rw [matchCfg_by_code, matchCfg_by_code, if_neg h, if_neg h]

theorem Table.prev_writeReg_addr_other (t : Table) {i j : Fin 64} (v : Word)
    (h : j.val ≠ i.val + 1) : (t.writeReg (.addr i) v).prev j = t.prev j := by
  obtain ⟨n, hn⟩ := j
  cases n with
  | zero => rfl
  | succ n =>
    have hne : (⟨n, by omega⟩ : Fin 64) ≠ i := fun e => h (by rw [← e])
    exact t.writeReg_addr_other v hne

/-- Settles O31: entry `j` reads boundary `j`, unless it is OFF, and in mode TOR boundary `j - 1`. -/
theorem boundaryChangeIsLocal : Obligations.BoundaryChangeIsLocal := by
  refine fun t i j v a => ⟨fun hown hnext => ?other, fun hoff => ?own, fun hnext htor => ?next⟩
  case other =>
    rw [Table.matchAt, t.writeReg_addr_other v (Fin.val_ne_iff.mp hown),
      t.prev_writeReg_addr_other v hnext]
    rfl
  case own =>
    rw [Table.matchAt, Table.matchAt, matchCfg_of_off hoff]
    exact matchCfg_of_off hoff _ _ _
  case next =>
    have hown : j ≠ i := fun e => by omega
    rw [Table.matchAt, t.writeReg_addr_other v hown]
    exact matchCfg_prev_of_not_tor htor _ _ _ _

/-! ### The scan and the find-first (R133) -/

/-- Settles O25: both decide by the flag of the least matching entry, and deny where none matches. -/
theorem scanIsPriorityEncoder : Obligations.ScanIsPriorityEncoder := resolve_eq_resolveByVector

end Sys2Proof.Machine
end

section
/-! What a step can do: the operation it fetches, the instruction it runs, what that instruction leaves
of the model's own fields, and from these what every step does to the two tables. -/

namespace Sys2Proof.Machine

open Sys2Proof.Safety

/-! ### What one instruction does to the model's own fields -/

/-- An instruction answers on the port of its format; a command shows a value other than 0 only if it
reads a register. -/
theorem exec_answers (i : Instr) (s : State) :
    match encode i with
    | .k _ => ∃ d, exec i s = .next (s.answerCheck d)
    | .c _ => ∃ u v, exec i s = .next (State.answerConfig u v) ∧ u.inputs = s.inputs ∧
        u.probe = s.probe ∧ (v ≠ 0 → ∃ r w, i = .rds r w ∨ i = .rda r w)
    | .g _ => ∃ b, exec i s = .next (s.answerMatch b) := by
  cases i with
  | checkR | checkW | checkX | reservedOp3 => exact ⟨_, rfl⟩
  | nop | wr | commit | reservedCmd5 | reservedCmd6 | reservedCmd7 =>
    exact ⟨_, _, rfl, rfl, rfl, fun h => absurd rfl h⟩
  | rds r w => exact ⟨_, _, rfl, rfl, rfl, fun _ => ⟨r, w, .inl rfl⟩⟩
  | rda r w => exact ⟨_, _, rfl, rfl, rfl, fun _ => ⟨r, w, .inr rfl⟩⟩
  | matchOff | matchTor | matchNa4 | matchNapot => exact ⟨_, rfl⟩

/-- Settles O48: each of the three answers records its own output and clears the others. -/
theorem frameOfModelFields : Obligations.FrameOfModelFields := by
  intro i s
  have hanswers := exec_answers i s
  cases hi : encode i with
  | k w =>
    obtain ⟨d, hd⟩ := hi ▸ hanswers
    exact ⟨_, hd, rfl, rfl, by simp, by simp, by simp⟩
  | c w =>
    obtain ⟨u, v, hv, hinputs, hprobe, hreads⟩ := hi ▸ hanswers
    exact ⟨_, hv, hinputs, hprobe, by simp, by simp, hreads⟩
  | g w =>
    obtain ⟨b, hb⟩ := hi ▸ hanswers
    exact ⟨_, hb, rfl, rfl, by simp, by simp, by simp⟩

/-- The recorded outputs replaced by others. -/
def State.withOutputs (s : State) (d : Option Decision) (v : Word) (m : Option Bool) : State :=
  { s with decision := d, rdata := v, matched := m }

/-- Every instruction writes all three outputs and reads none. -/
theorem exec_withOutputs (i : Instr) (s : State) (d : Option Decision) (v : Word)
    (m : Option Bool) : exec i (s.withOutputs d v m) = exec i s := by
  cases i <;> rfl

/-- A fetch reads no output. -/
theorem fetch_withOutputs (s : State) (d : Option Decision) (v : Word) (m : Option Bool) :
    fetch (s.withOutputs d v m) = ((fetch s).1, (fetch s).2.withOutputs d v m) := by
  obtain ⟨act, stg, ins, probe, _, _, _⟩ := s
  unfold fetch State.withOutputs
  dsimp only
  split <;> rfl

/-- Settles O47: a fetch carries the outputs along, and whatever is run overwrites them. -/
theorem outputsAreNotRead : Obligations.OutputsAreNotRead := by
  intro s d v m
  change step (s.withOutputs d v m) = step s
  rw [step, step, fetch_withOutputs]
  obtain ⟨fetched, u⟩ := fetch s
  cases fetched with
  | idle => rfl
  | reset => rfl
  | run i => exact exec_withOutputs i u d v m

/-! ### What a step fetches and runs -/

/-- Settles O8: each kind of input is fetched as the word that it presents. -/
theorem stepRunsDecodedWord : Obligations.StepRunsDecodedWord := fun s rest =>
  ⟨fun k h => step_of_fetch_run (fetch_request s rest k h), fun _ => step_command,
    fun k c h => step_of_fetch_run (fetch_both s rest k c h),
    fun i a h => step_of_fetch_run (fetch_matcher s rest i a h)⟩

/-- The input that presents a word of a format: a request, a command with no request beside it, or an
entry whose config byte is the word. -/
def Presents (s : State) : FormatWord → Prop
  | .k k => ∃ c rest, s.inputs = .ports (some k) c :: rest
  | .c c => ∃ rest, s.inputs = .ports none (some c) :: rest
  | .g g => ∃ i a rest, s.inputs = .matcher i a :: rest ∧ g = s.active.cfg[i]

/-- The word of a fetched instruction is presented. -/
theorem presents_of_fetch_run {s u : State} {i : Instr} (h : fetch s = (.run i, u)) :
    Presents s (encode i) := by
  cases hinputs : s.inputs with
  | nil => simp [fetch_nil s hinputs] at h
  | cons x rest =>
    match x with
    | .reset => simp [fetch_reset s rest hinputs] at h
    | .ports none none => simp [fetch_none s rest hinputs] at h
    | .ports (some k) none =>
      obtain ⟨rfl, -⟩ : decodeK k = i ∧ _ := by simpa [fetch_request s rest k hinputs] using h
      rw [encode_decodeK]
      exact ⟨none, rest, hinputs⟩
    | .ports (some k) (some c) =>
      obtain ⟨rfl, -⟩ : decodeK k = i ∧ _ := by simpa [fetch_both s rest k c hinputs] using h
      rw [encode_decodeK]
      exact ⟨some c, rest, hinputs⟩
    | .ports none (some c) =>
      obtain ⟨rfl, -⟩ : decodeC c = i ∧ _ := by simpa [fetch_command s rest c hinputs] using h
      rw [encode_decodeC]
      exact ⟨rest, hinputs⟩
    | .matcher j a =>
      obtain ⟨rfl, -⟩ : decodeG s.active.cfg[j] = i ∧ _ := by
        simpa [fetch_matcher s rest j a hinputs] using h
      rw [encode_decodeG]
      exact ⟨j, a, rest, hinputs, rfl⟩

/-- A reset is fetched from a reset input only. -/
theorem inputs_of_fetch_reset {s u : State} (h : fetch s = (.reset, u)) :
    ∃ rest, s.inputs = .reset :: rest := by
  unfold fetch at h
  split at h <;> simp_all

/-- A step is an idle step, a reset, or a run of the instruction fetched. -/
theorem step_cases {s t : State} (h : step s = .next t) :
    ∃ u, (fetch s = (.idle, u) ∧ t = u.idle) ∨ (fetch s = (.reset, u) ∧ t = resetStep u) ∨
      ∃ i, fetch s = (.run i, u) ∧ exec i u = .next t := by
  rw [step] at h
  generalize fetch s = fetched at h ⊢
  obtain ⟨fetched, u⟩ := fetched
  refine ⟨u, ?_⟩
  cases fetched with
  | idle => exact .inl ⟨rfl, by cases h; rfl⟩
  | reset => exact .inr (.inl ⟨rfl, by cases h; rfl⟩)
  | run i => exact .inr (.inr ⟨i, rfl, h⟩)

theorem step_completes (s : State) : ∃ t, step s = .next t ∧ t.inputs = (fetch s).2.inputs := by
  rw [step]
  obtain ⟨fetched, u⟩ := fetch s
  cases fetched with
  | idle => exact ⟨_, rfl, rfl⟩
  | reset => exact ⟨_, rfl, rfl⟩
  | run i => exact exec_completes i u

/-- A property of inputs that looks at the command only: where no pending input has it, none has it
after a step (the only new input is the command that waits behind a request). -/
theorem step_keeps_no_input {P : Input → Prop}
    (hP : ∀ k c, P (.ports none (some c)) → P (.ports (some k) (some c))) {s t : State}
    (h : step s = .next t) (hnone : ∀ x ∈ s.inputs, ¬ P x) : ∀ x ∈ t.inputs, ¬ P x := by
  obtain ⟨t', ht', hinputs⟩ := step_completes s
  obtain rfl : t' = t := Host.Outcome.next.inj (ht'.symm.trans h)
  intro x hx hPx
  obtain hold | ⟨k, c, hboth, rfl⟩ := fetch_inputs s x (hinputs ▸ hx)
  · exact hnone x hold hPx
  · exact hnone _ hboth (hP k c hPx)

/-! ### Idle steps and reset -/

theorem step_of_fetch_idle {s u : State} (h : fetch s = (.idle, u)) : step s = .next u.idle := by
  rw [step, h]

/-- Settles O9: a step that fetches nothing is idle. -/
theorem idleStepChangesNothing : Obligations.IdleStepChangesNothing := by
  refine fun s rest => ⟨fun h => ?_, fun h => ?_⟩
  · exact ⟨_, step_of_fetch_idle (fetch_nil s h), rfl, rfl, h, rfl⟩
  · exact ⟨_, step_of_fetch_idle (fetch_none s rest h), rfl, rfl, rfl, rfl⟩

theorem step_of_fetch_reset {s u : State} (h : fetch s = (.reset, u)) :
    step s = .next (resetStep u) := by
  rw [step, h]

/-- Settles O11: a reset step leaves the table of zeros twice, and what is pending behind it. -/
theorem resetStepClearsBothTables : Obligations.ResetStepClearsBothTables := by
  refine fun s rest h => ⟨_, step_of_fetch_reset (fetch_reset s rest h), fun r => ?_,
    fun i => ?_, rfl, rfl⟩
  · exact ⟨Table.zero_readReg r, Table.zero_readReg r⟩
  · have hcfg := Table.zero_cfg i i.isLt
    have haddr := Table.zero_addr i i.isLt
    exact ⟨hcfg, haddr, hcfg, haddr⟩

/-- Settles O12: both tables of the reset state are the table of zeros. -/
theorem resetStateIsZero : Obligations.ResetStateIsZero := fun i =>
  have hcfg := Table.zero_cfg i i.isLt
  have haddr := Table.zero_addr i i.isLt
  ⟨hcfg, haddr, hcfg, haddr⟩

/-! ### Observed matches (log entry 5) -/

/-- The row that a config byte selects answers with the match function that its mode selects. -/
theorem exec_decodeG (s : State) :
    exec (decodeG s.active.cfg[s.probe.entry]) s =
      .next (s.answerMatch (s.active.matchAt s.probe.entry s.probe.addr)) := by
  rw [Table.matchAt, matchCfg, decodeRegion, decodeG]
  dsimp only
  cases decodeMode s.active.cfg[s.probe.entry] <;> rfl

/-- Settles O22: the row that is run answers with the match result of the entry, which is the match of
the reference function. -/
theorem observedMatchIsTheVectors : Obligations.ObservedMatchIsTheVectors := by
  intro s i a rest h
  have hstep := step_of_fetch_run (fetch_matcher s rest i a h)
  refine ⟨_, hstep.trans (exec_decodeG { s with inputs := rest, probe := ⟨i, a⟩ }), ?_, ?_,
    rfl, rfl, rfl⟩
  · rw [State.answerMatch_matched, Option.some_inj, matchAt_iff]
  · rw [State.answerMatch_matched, Option.some_inj, ← matchAt_iff, Bool.not_eq_true]

/-! ### What a step does to the tables (R28) -/

/-- Field `cmd` of a command word, as a number (R81). -/
theorem commandCode_toNat (v : Word) (x : Idx) (cmd : BitVec 3) :
    (v ++ x ++ cmd : CWord).toNat % 8 = cmd.toNat := by
  have hword : (v ++ x ++ cmd : CWord).toNat = _ := encodeC_toNat v x cmd
  have hcmd := cmd.isLt
  omega

/-- Settles O40: an idle step and a request change no table, a reset clears both, and a command that
runs COMMIT or WR is the one presented. -/
theorem tablesChangeOnlyAsStated : Obligations.TablesChangeOnlyAsStated := by
  intro s t h
  obtain ⟨hactive, hstaging⟩ := fetch_tables s
  obtain ⟨u, ⟨hfetch, rfl⟩ | ⟨hfetch, rfl⟩ | ⟨i, hfetch, hexec⟩⟩ := step_cases h
  · rw [hfetch] at hactive hstaging
    exact ⟨.inl hactive, .inl hstaging⟩
  · obtain ⟨rest, hinputs⟩ := inputs_of_fetch_reset hfetch
    exact ⟨.inr (.inl ⟨rest, hinputs, rfl⟩), .inr (.inl ⟨rest, hinputs, rfl⟩)⟩
  · have hword := presents_of_fetch_run hfetch
    obtain ⟨hta, hts⟩ := exec_tables i u t hexec
    rw [hfetch] at hactive hstaging
    cases i with
    | commit x v =>
      obtain ⟨rest, hinputs⟩ := hword
      exact ⟨.inr (.inr ⟨_, rest, hinputs, commandCode_toNat v x 4, hta.trans hstaging⟩),
        .inl (hts.trans hstaging)⟩
    | wr r v =>
      obtain ⟨rest, hinputs⟩ := hword
      exact ⟨.inl (hta.trans hactive), .inr (.inr ⟨_, rest, r, v, hinputs,
        decodeWord_encode (.wr r v), hts.trans (congrArg (Table.writeReg · r v) hstaging)⟩)⟩
    | _ => exact ⟨.inl (hta.trans hactive), .inl (hts.trans hstaging)⟩

end Sys2Proof.Machine
end

section
/-! Invariants of every step and of runs of every length: completion, closed and denying blocks
(R145 (a), R191), and what is staged (R63, R199). -/

namespace Sys2Proof.Machine

open Sys2Proof.Safety

/-! ### Runs -/

/-- What every step keeps holds at the end of every run, and every run has an end. -/
theorem run_keeps {Inv : State → Prop} (hkeep : ∀ s t, Inv s → step s = .next t → Inv t)
    (n : Nat) (s : State) (h : Inv s) : ∃ t, Host.Core.run core n s = .next t ∧ Inv t := by
  induction n generalizing s with
  | zero => exact ⟨s, rfl, h⟩
  | succ n ih =>
    obtain ⟨u, hstep, -⟩ := step_completes s
    rw [run_succ_of_next n s u hstep]
    exact ih u (hkeep s u h hstep)

/-- A relation of two machines that every pair of steps keeps holds at the end of every two runs of one
length. -/
theorem run_keeps_relation {R : State → State → Prop}
    (hkeep : ∀ s s', R s s' → ∃ t t', step s = .next t ∧ step s' = .next t' ∧ R t t')
    (n : Nat) (s s' : State) (h : R s s') :
    ∃ t t', Host.Core.run core n s = .next t ∧ Host.Core.run core n s' = .next t' ∧ R t t' := by
  induction n generalizing s s' with
  | zero => exact ⟨s, s', rfl, rfl, h⟩
  | succ n ih =>
    obtain ⟨u, u', hu, hu', hR⟩ := hkeep s s' h
    rw [run_succ_of_next n s u hu, run_succ_of_next n s' u' hu']
    exact ih u u' hR

/-- Settles O13: every step completes, so every run does. -/
theorem everyRunCompletes : Obligations.EveryRunCompletes := by
  intro n s
  obtain ⟨t, hrun, -⟩ := run_keeps (Inv := fun _ => True) (fun _ _ _ _ => trivial) n s trivial
  exact ⟨t, hrun⟩

theorem not_of_head_input {P : Input → Prop} {s : State} {x : Input} {rest : List Input}
    (hnone : ∀ y ∈ s.inputs, ¬ P y) (hinputs : s.inputs = x :: rest) : ¬ P x :=
  hnone x (hinputs ▸ List.mem_cons_self)

/-! ### Every entry OFF -/

theorem allOff_zero : AllOff Table.zero := by
  intro i
  rw [Fin.getElem_fin, Table.zero_cfg]
  rfl

/-- Settles O45: the tables of the reset state are zero, and mode 0 is OFF. -/
theorem closedAtReset : Obligations.ClosedAtReset := fun _ hins => ⟨allOff_zero, allOff_zero, hins⟩

/-- Settles O51: the active table of the reset state is zero, and mode 0 is OFF. -/
theorem denyingAtReset : Obligations.DenyingAtReset := fun _ hins => ⟨allOff_zero, hins⟩

/-- The mode of a config byte that WR stores stands in bits 4:3 of `wdata` (R152). -/
theorem modeCode_setWidth (v : Word) : modeCode (v.setWidth 8) = v.toNat / 8 % 4 := by
  rw [modeCode, BitVec.toNat_setWidth]
  omega

/-- A command word that decodes to WR has its fields. -/
theorem toNat_of_decodeC_wr {c : CWord} {r : Reg} {v : Word} (h : decodeC c = .wr r v) :
    c.toNat = v.toNat * 2 ^ 10 + regIndex r * 2 ^ 3 + 1 := by
  have hword : encodeC v (encodeReg r) 1 = .c c := by
    rw [← encode_decodeC, h]
    rfl
  have hfields := encodeC_toNat v (encodeReg r) 1
  rwa [hword, encodeReg_toNat] at hfields

/-- A WR that stages no mode leaves every entry OFF. -/
theorem allOff_writeReg {t : Table} {c : CWord} {r : Reg} {v : Word} (hoff : AllOff t)
    (hdecode : decodeC c = .wr r v) (hstages : ¬ StagesMode (.ports none (some c))) :
    AllOff (t.writeReg r v) := by
  cases r with
  | addr i => exact hoff
  | cfg i =>
    intro j
    rw [Table.writeReg_cfg_get]
    split
    · have hnum := toNat_of_decodeC_wr hdecode
      have hindex : regIndex (.cfg i) < 64 := i.isLt
      rw [modeCode_setWidth]
      by_contra hmode
      exact hstages ⟨by omega, by omega, by omega⟩
    · exact hoff j

/-- Settles O44: a table becomes zero, or the staging table, or the staging table with one register
written by a pending WR, and none of these has a mode other than OFF. -/
theorem closedIsKept : Obligations.ClosedIsKept := by
  intro s t ⟨hactive, hstaging, hpending⟩ hstep
  obtain ⟨ha, hs⟩ := tablesChangeOnlyAsStated s t hstep
  refine ⟨?_, ?_, step_keeps_no_input (fun _ _ h => h) hstep hpending⟩
  · obtain h | ⟨_, -, h⟩ | ⟨_, _, -, -, h⟩ := ha <;> rw [h]
    · exact hactive
    · exact allOff_zero
    · exact hstaging
  · obtain h | ⟨_, -, h⟩ | ⟨c, rest, r, v, hinputs, hdecode, h⟩ := hs <;> rw [h]
    · exact hstaging
    · exact allOff_zero
    · exact allOff_writeReg hstaging hdecode (not_of_head_input hpending hinputs)

/-! ### Requests denied -/

theorem resolveCode_of_allOff {t : Table} (hoff : AllOff t) (a : Word) (code : BitVec 2) :
    resolveCode t a code = .fault := by
  obtain hspare | ⟨op, hop⟩ := opCode_cases code
  · exact resolveCode_spare t a hspare
  · rw [resolveCode_of_flagNumber t a hop]
    exact resolve_of_noMatch (fun i => not_matches_of_off (hoff i) a) op

/-- A step with a request word presented judges it, whether or not a command is beside it. -/
theorem step_request {s t : State} {k : KWord} {c : Option CWord} {rest : List Input}
    (hinputs : s.inputs = .ports (some k) c :: rest) (hstep : step s = .next t) :
    t.decision = some (resolveCode s.active (k.extractLsb' 4 32) (k.extractLsb' 0 2)) := by
  cases c with
  | none =>
    rw [step_of_fetch_run (fetch_request s rest k hinputs), exec_decodeK] at hstep
    rw [← Host.Outcome.next.inj hstep, State.answerCheck_decision]
  | some c =>
    rw [step_both hinputs] at hstep
    rw [← Host.Outcome.next.inj hstep, State.answerCheck_decision]

/-- A step that records a decision has a request word presented. -/
theorem request_of_step_decision {s t : State} (hstep : step s = .next t)
    (hdecision : t.decision ≠ none) : ∃ k c rest, s.inputs = .ports (some k) c :: rest := by
  obtain ⟨u, ⟨-, rfl⟩ | ⟨-, rfl⟩ | ⟨i, hfetch, hexec⟩⟩ := step_cases hstep
  · exact absurd rfl hdecision
  · exact absurd rfl hdecision
  · obtain ⟨t', ht', -, -, hrequest, -⟩ := frameOfModelFields i u
    obtain rfl : t' = t := Host.Outcome.next.inj (ht'.symm.trans hexec)
    obtain ⟨k, hk⟩ := hrequest.mp hdecision
    have hword := presents_of_fetch_run hfetch
    rw [hk] at hword
    exact ⟨k, hword⟩

/-- Settles O50: the active table stays or becomes zero, since no COMMIT is pending, and a table with
every entry OFF denies whatever is asked. -/
theorem denyingIsKept : Obligations.DenyingIsKept := by
  intro s t ⟨hactive, hpending⟩ hstep
  have hfault : ∀ k c rest, s.inputs = .ports (some k) c :: rest → t.decision = some .fault := by
    intro k c rest hinputs
    rw [step_request hinputs hstep, resolveCode_of_allOff hactive]
  refine ⟨⟨?_, step_keeps_no_input (fun _ _ h => h) hstep hpending⟩, fun hallowed => ?_, hfault⟩
  · obtain ⟨h | ⟨_, -, h⟩ | ⟨c, rest, hinputs, hcode, -⟩, -⟩ := tablesChangeOnlyAsStated s t hstep
    · rwa [h]
    · rw [h]
      exact allOff_zero
    · exact absurd hcode (not_of_head_input hpending hinputs)
  · obtain ⟨k, c, rest, hinputs⟩ := request_of_step_decision hstep (by simp [hallowed])
    simp [hfault k c rest hinputs] at hallowed

/-- Settles O46: the reset state denies, and every step keeps it so and does not answer `Allowed`. -/
theorem deniedUntilFirstCommit : Obligations.DeniedUntilFirstCommit := by
  intro n ins hins
  have hkeep : ∀ s t, Denying s ∧ s.decision ≠ some .allowed → step s = .next t →
      Denying t ∧ t.decision ≠ some .allowed := by
    rintro s t ⟨hdenying, -⟩ hstep
    obtain ⟨hdenying', hdecision, -⟩ := denyingIsKept s t hdenying hstep
    exact ⟨hdenying', hdecision⟩
  have hreset : State.reset.decision ≠ some .allowed := by decide
  obtain ⟨t, hrun, -, hdecision⟩ := run_keeps hkeep n _ ⟨denyingAtReset ins hins, hreset⟩
  exact ⟨t, hrun, hdecision⟩

/-! ### What is staged -/

/-- The two states agree in what requests read and in what is presented. -/
def AgreeButForStaged (s s' : State) : Prop :=
  s'.active = s.active ∧ s'.inputs = s.inputs ∧ s'.probe = s.probe

/-- A fetch does not read the staging table. -/
theorem agreeButForStaged_fetch {s s' : State} (h : AgreeButForStaged s s') :
    (fetch s').1 = (fetch s).1 ∧ AgreeButForStaged (fetch s).2 (fetch s').2 := by
  obtain ⟨act, stg, ins, probe, _, _, _⟩ := s
  obtain ⟨_, stg', _, _, _, _, _⟩ := s'
  obtain ⟨rfl, rfl, rfl⟩ := h
  unfold fetch
  dsimp only
  split <;> exact ⟨rfl, rfl, rfl, rfl⟩

/-- Of all instructions COMMIT alone lets the staging table be seen in the active table, in a decision
or in a match. -/
theorem agreeButForStaged_exec {s s' : State} (h : AgreeButForStaged s s') {i : Instr}
    (hcommit : ∀ x v, i ≠ .commit x v) :
    ∃ t t', exec i s = .next t ∧ exec i s' = .next t' ∧ AgreeButForStaged t t' ∧
      t.decision = t'.decision ∧ t.matched = t'.matched := by
  obtain ⟨act, stg, ins, probe, _, _, _⟩ := s
  obtain ⟨_, stg', _, _, _, _, _⟩ := s'
  obtain ⟨rfl, rfl, rfl⟩ := h
  cases i with
  | commit x v => exact absurd rfl (hcommit x v)
  | _ => exact ⟨_, _, rfl, rfl, ⟨rfl, rfl, rfl⟩, rfl, rfl⟩

/-- Where no COMMIT is pending none is fetched. -/
theorem ne_commit_of_fetch {s u : State} {i : Instr} (hfetch : fetch s = (.run i, u))
    (hpending : ∀ x ∈ s.inputs, ¬ HasCommit x) (x : Idx) (v : Word) : i ≠ .commit x v := by
  rintro rfl
  obtain ⟨rest, hinputs⟩ := presents_of_fetch_run hfetch
  exact not_of_head_input hpending hinputs (commandCode_toNat v x 4)

/-- A step that runs no COMMIT does not let what is staged be seen. -/
theorem agreeButForStaged_step {s s' : State} (h : AgreeButForStaged s s')
    (hpending : ∀ x ∈ s.inputs, ¬ HasCommit x) :
    ∃ t t', step s = .next t ∧ step s' = .next t' ∧ AgreeButForStaged t t' ∧
      t.decision = t'.decision ∧ t.matched = t'.matched := by
  obtain ⟨hsame, hagree⟩ := agreeButForStaged_fetch h
  rcases hfetch : fetch s with ⟨fetched, u⟩
  rcases hfetch' : fetch s' with ⟨fetched', u'⟩
  rw [hfetch, hfetch'] at hsame hagree
  obtain rfl : fetched' = fetched := hsame
  cases fetched' with
  | idle =>
    exact ⟨_, _, step_of_fetch_idle hfetch, step_of_fetch_idle hfetch', hagree, rfl, rfl⟩
  | reset =>
    obtain ⟨-, hinputs, hprobe⟩ := hagree
    exact ⟨_, _, step_of_fetch_reset hfetch, step_of_fetch_reset hfetch',
      ⟨rfl, hinputs, hprobe⟩, rfl, rfl⟩
  | run i =>
    rw [step_of_fetch_run hfetch, step_of_fetch_run hfetch']
    exact agreeButForStaged_exec hagree (ne_commit_of_fetch hfetch hpending)

/-- Settles O49: both machines fetch the same, and no instruction but COMMIT lets what is staged be
seen. -/
theorem stagedIsNotActiveStep : Obligations.StagedIsNotActiveStep := by
  rintro s s' ⟨hactive, hinputs, hprobe, hpending⟩
  have hagree : AgreeButForStaged s s' := ⟨hactive, hinputs, hprobe⟩
  obtain ⟨t, t', ht, ht', ⟨hactive', hinputs', hprobe'⟩, hanswers⟩ :=
    agreeButForStaged_step hagree hpending
  have hpending' := step_keeps_no_input (fun _ _ h => h) ht hpending
  exact ⟨t, t', ht, ht', ⟨hactive', hinputs', hprobe', hpending'⟩, hanswers⟩

/-- Settles O42: the step lemma of O49 over the length of the run, from two states that differ in the
staging table only. -/
theorem stagedIsNotActive : Obligations.StagedIsNotActive := by
  intro n s other hpending
  have hkeep : ∀ s s', EqualButForStaged s s' ∧ s.decision = s'.decision →
      ∃ t t', step s = .next t ∧ step s' = .next t' ∧
        EqualButForStaged t t' ∧ t.decision = t'.decision := by
    rintro s s' ⟨hequal, -⟩
    obtain ⟨t, t', ht, ht', hequal', hdecision, -⟩ := stagedIsNotActiveStep s s' hequal
    exact ⟨t, t', ht, ht', hequal', hdecision⟩
  obtain ⟨t, t', ht, ht', ⟨hactive, hinputs, -, -⟩, hdecision⟩ :=
    run_keeps_relation hkeep n s { s with staging := other } ⟨⟨rfl, rfl, rfl, hpending⟩, rfl⟩
  exact ⟨t, t', ht, ht', hdecision, hactive.symm, hinputs.symm⟩

end Sys2Proof.Machine
end

section
/-! Sequences of operations and of inputs: writes to the staging table (R153), fields that a command
does not read (R82), the latest write and the latest COMMIT (R61), and the loading of a table (R160). -/

namespace Sys2Proof.Machine

open Sys2Proof.Safety

/-! ### Two writes (R153) -/

theorem Table.writeReg_comm (t : Table) {r r' : Reg} (h : r ≠ r') (v v' : Word) :
    (t.writeReg r v).writeReg r' v' = (t.writeReg r' v').writeReg r v := by
  refine Table.ext_readReg _ _ fun q => ?_
  by_cases hr : r = q
  · subst hr
    rw [Table.readReg_writeReg_other _ _ _ _ h.symm, Table.readReg_writeReg_same,
      Table.readReg_writeReg_same]
  · rw [Table.readReg_writeReg_other _ _ _ _ hr]
    by_cases hr' : r' = q
    · subst hr'
      rw [Table.readReg_writeReg_same, Table.readReg_writeReg_same]
    · rw [Table.readReg_writeReg_other _ _ _ _ hr', Table.readReg_writeReg_other _ _ _ _ hr',
        Table.readReg_writeReg_other _ _ _ _ hr]

theorem Table.writeReg_writeReg_same (t : Table) (r : Reg) (v v' : Word) :
    (t.writeReg r v).writeReg r v' = t.writeReg r v' := by
  refine Table.ext_readReg _ _ fun q => ?_
  by_cases hr : r = q
  · subst hr
    rw [Table.readReg_writeReg_same, Table.readReg_writeReg_same]
  · simp only [Table.readReg_writeReg_other _ _ _ _ hr]

/-- Two WRs complete, and write the staging table twice. -/
theorem execAll_wr_wr (r r' : Reg) (v v' : Word) (s : State) :
    execAll [.wr r v, .wr r' v'] s = .next (State.answerConfig
      { s with staging := (s.staging.writeReg r v).writeReg r' v' } 0) := rfl

theorem execAll_wr (r : Reg) (v : Word) (s : State) :
    execAll [.wr r v] s =
      .next (State.answerConfig { s with staging := s.staging.writeReg r v } 0) := rfl

/-- Settles O35: writes to different registers commute, and the later of two to one register wins. -/
theorem writesCommuteAndLaterWins : Obligations.WritesCommuteAndLaterWins := by
  refine fun r r' v v' s => ⟨fun h => ?_, ?_, _, execAll_wr_wr r r' v v' s⟩
  · rw [execAll_wr_wr, execAll_wr_wr, Table.writeReg_comm _ h]
  · rw [execAll_wr_wr, execAll_wr, Table.writeReg_writeReg_same]

/-! ### Fields that a command does not read (R82) -/

/-- NOP, COMMIT and the reserved commands read neither field. -/
theorem exec_commandOfCode_congr {cmd : BitVec 3} (hcmd : cmd.toNat = 0 ∨ 4 ≤ cmd.toNat)
    (x x' : Idx) (v v' : Word) (s : State) :
    exec (commandOfCode cmd x v) s = exec (commandOfCode cmd x' v') s := by
  match cmd with
  | 0 => rfl
  | 1 => exact absurd hcmd (by decide)
  | 2 => exact absurd hcmd (by decide)
  | 3 => exact absurd hcmd (by decide)
  | 4 => rfl
  | 5 => rfl
  | 6 => rfl
  | 7 => rfl

/-- RDS and RDA do not read `wdata`. -/
theorem exec_commandOfCode_wdata_congr {cmd : BitVec 3} (hcmd : cmd.toNat = 2 ∨ cmd.toNat = 3)
    (x : Idx) (v v' : Word) (s : State) :
    exec (commandOfCode cmd x v) s = exec (commandOfCode cmd x v') s := by
  obtain h | h := hcmd
  · obtain rfl : cmd = 2 := BitVec.eq_of_toNat_eq h
    rfl
  · obtain rfl : cmd = 3 := BitVec.eq_of_toNat_eq h
    rfl

theorem commandField_toNat (c : CWord) : (c.extractLsb' 0 3).toNat = c.toNat % 8 := by
  simp [BitVec.extractLsb'_toNat]

theorem indexField_toNat (c : CWord) : (c.extractLsb' 3 7).toNat = c.toNat / 8 % 128 := by
  simp [BitVec.extractLsb'_toNat, Nat.shiftRight_eq_div_pow]

/-- Settles O39: the two words have the same code, and the command of that code does not read the
fields in which they differ. -/
theorem unreadFieldsHaveNoEffect : Obligations.UnreadFieldsHaveNoEffect := by
  intro c c' s hcode
  have hcmd : c'.extractLsb' 0 3 = c.extractLsb' 0 3 :=
    BitVec.eq_of_toNat_eq (by rw [commandField_toNat, commandField_toNat, hcode])
  rw [decodeC_eq_commandOfCode, decodeC_eq_commandOfCode c', hcmd, ← commandField_toNat]
  refine ⟨fun h => exec_commandOfCode_congr h _ _ _ _ s, fun h hindex => ?_⟩
  have hidx : c'.extractLsb' 3 7 = c.extractLsb' 3 7 :=
    BitVec.eq_of_toNat_eq (by rw [indexField_toNat, indexField_toNat, hindex])
  rw [hidx]
  exact exec_commandOfCode_wdata_congr h _ _ _ s

/-! ### The latest write and the latest COMMIT (R61) -/

/-- What every instruction of a sequence keeps holds after the sequence. -/
theorem execAll_keeps {P : State → Prop} {is : List Instr}
    (hkeep : ∀ i ∈ is, ∀ s t, P s → exec i s = .next t → P t) {s : State} (h : P s) :
    ∃ t, execAll is s = .next t ∧ P t := by
  induction is generalizing s with
  | nil => exact ⟨s, rfl, h⟩
  | cons i is ih =>
    obtain ⟨hhead, htail⟩ := List.forall_mem_cons.mp hkeep
    obtain ⟨u, hu, -⟩ := exec_completes i s
    rw [execAll, hu]
    exact ih htail (hhead s u h hu)

theorem execAll_completes (is : List Instr) (s : State) : ∃ t, execAll is s = .next t := by
  obtain ⟨t, ht, -⟩ :=
    execAll_keeps (P := fun _ => True) (is := is) (fun _ _ _ _ _ _ => trivial) (s := s) trivial
  exact ⟨t, ht⟩

theorem execAll_append_of_next {is : List Instr} {s t : State} (h : execAll is s = .next t)
    (js : List Instr) : execAll (is ++ js) s = execAll js t := by
  rw [execAll_append, h]

theorem execAll_singleton (i : Instr) (s : State) : execAll [i] s = exec i s := by
  obtain ⟨t, ht, -⟩ := exec_completes i s
  simp only [execAll, ht]

/-- What one instruction establishes and the ones behind it keep, the last one finds. -/
theorem execAll_finds {P : State → Prop} {pre post : List Instr} {i : Instr} {s u v : State}
    (hpre : execAll pre s = .next u) (hi : exec i u = .next v) (hv : P v)
    (hpost : ∀ k ∈ post, ∀ s t, P s → exec k s = .next t → P t) (j : Instr) :
    ∃ w, P w ∧ execAll (pre ++ [i] ++ post ++ [j]) s = exec j w := by
  obtain ⟨w, hw, hPw⟩ := execAll_keeps hpost hv
  have hpre' : execAll (pre ++ [i]) s = .next v := by
    rw [execAll_append_of_next hpre, execAll_singleton, hi]
  refine ⟨w, hPw, ?_⟩
  rw [List.append_assoc, execAll_append_of_next hpre', execAll_append_of_next hw,
    execAll_singleton]

/-- Only a WR to a register changes what is staged in it. -/
theorem exec_keeps_staged {i : Instr} {r : Reg} (hwr : ∀ v, i ≠ .wr r v) {s t : State}
    (h : exec i s = .next t) : t.staging.readReg r = s.staging.readReg r := by
  obtain ⟨-, hstaging⟩ := exec_tables i s t h
  rw [hstaging]
  cases i with
  | wr r' v =>
    have hne : r' ≠ r := fun e => hwr v (by rw [e])
    exact Table.readReg_writeReg_other _ _ _ _ hne
  | _ => rfl

/-- Only COMMIT changes the active table. -/
theorem exec_keeps_active {i : Instr} (hcommit : ∀ x v, i ≠ .commit x v) {s t : State}
    (h : exec i s = .next t) : t.active = s.active := by
  obtain ⟨hactive, -⟩ := exec_tables i s t h
  rw [hactive]
  cases i with
  | commit x v => exact absurd rfl (hcommit x v)
  | _ => rfl

/-- After a COMMIT and operations without another, the active table is what was staged at the
COMMIT. -/
theorem execAll_finds_committed {post : List Instr} (hpost : NoCommit post)
    (pre : List Instr) (x : Idx) (v : Word) (s : State) :
    ∃ u, execAll pre s = .next u ∧ ∀ j, ∃ w : State, w.active = u.staging ∧
      execAll (pre ++ [.commit x v] ++ post ++ [j]) s = exec j w := by
  obtain ⟨u, hpre⟩ := execAll_completes pre s
  refine ⟨u, hpre, fun j => ?_⟩
  refine execAll_finds (P := fun w => w.active = u.staging) hpre (exec_commit x v u) rfl ?_ j
  intro k hk s t hs ht
  rw [exec_keeps_active (fun y w e => hpost y w (e ▸ hk)) ht, hs]

/-- A register read after a WR to it shows the stored value (R84, R85). -/
theorem readReg_writeReg_toNat (t : Table) (r : Reg) (v : Word) :
    ((t.writeReg r v).readReg r).toNat = storedValue r v := by
  cases r with
  | cfg i => rw [Table.readReg_cfg_toNat, Table.writeReg_cfg_same_toNat, storedValue]
  | addr i => rw [Table.readReg_addr, Table.writeReg_addr_same, storedValue]

/-- Settles O41: RDS finds the register as the latest WR stored it, and RDA and requests find the
active table as the latest COMMIT published it. -/
theorem latestWriteAndLatestCommitAreSeen : Obligations.LatestWriteAndLatestCommitAreSeen := by
  refine ⟨?write, ?read, ?request⟩
  case write =>
    intro pre post r v x s hpost
    obtain ⟨u, hpre⟩ := execAll_completes pre s
    obtain ⟨w, hw, hlast⟩ :=
      execAll_finds (P := fun w => (w.staging.readReg r).toNat = storedValue r v) (post := post)
        hpre (exec_wr r v u) (readReg_writeReg_toNat _ r v)
        (fun k hk s t hs ht => by rwa [exec_keeps_staged (fun v e => hpost v (e ▸ hk)) ht])
        (.rds r x)
    exact ⟨_, hlast.trans (exec_rds r x w), hw⟩
  case read =>
    intro pre post i v r x s hpost
    obtain ⟨u, hpre, hfinds⟩ := execAll_finds_committed hpost pre i v s
    obtain ⟨w, hw, hlast⟩ := hfinds (.rda r x)
    refine ⟨u, _, hpre, hlast.trans (exec_rda r x w), ?_⟩
    rw [State.answerConfig_rdata, hw]
  case request =>
    intro pre post i v op p a s hpost
    obtain ⟨u, hpre, hfinds⟩ := execAll_finds_committed hpost pre i v s
    obtain ⟨w, hw, hlast⟩ := hfinds (request op p a)
    refine ⟨u, _, hpre, hlast.trans (exec_request op p a w), ?_⟩
    rw [State.answerCheck_decision, Option.some_inj, hw, resolve_eq_allowed_iff]

/-! ### Loading a table (R160) -/

/-- Each number below 128 is the index of a register (R27). -/
theorem exists_regIndex_eq {n : Nat} (h : n < 128) : ∃ r, regIndex r = n := by
  by_cases hn : n < 64
  · exact ⟨.cfg ⟨n, hn⟩, rfl⟩
  · exact ⟨.addr ⟨n - 64, by omega⟩, Nat.add_sub_cancel' (by omega)⟩

theorem regIndex_lt (r : Reg) : regIndex r < 128 := by
  rw [← encodeReg_toNat]
  exact (encodeReg r).isLt

theorem regIndex_injective : Function.Injective regIndex := by
  intro r r' h
  rw [← encodeReg_toNat, ← encodeReg_toNat] at h
  rw [← decodeReg_encodeReg r, BitVec.eq_of_toNat_eq h, decodeReg_encodeReg]

/-- A step that presents `WR n, v` stages the low bits of `v` in the register that `n` names. -/
theorem step_writeInput {s : State} {rest : List Input} {r : Reg} {v : Nat}
    (h : s.inputs = writeInput (regIndex r) v :: rest) :
    ∃ u, step s = .next u ∧ u.inputs = rest ∧
      u.staging = s.staging.writeReg r (BitVec.ofNat 32 v) := by
  have hdecode := decodeC_ofNat_reg (BitVec.ofNat 32 v) r 1
  rw [BitVec.toNat_ofNat] at hdecode
  have hwr := hdecode.trans (congrArg (Instr.wr · _) (decodeReg_encodeReg r))
  exact ⟨_, (step_command h).trans (congrArg (exec · _) hwr), rfl, rfl⟩

theorem step_commitInput {s : State} {rest : List Input} (h : s.inputs = commitInput :: rest) :
    step s = .next ((State.publish { s with inputs := rest }).answerConfig 0) := by
  rw [step_command h, decodeC_of_commitCode (by decide), exec_commit]

/-- WRs of numbers and a COMMIT leave the stored value of its number in each active register that is in
the order, and what was staged in the others. -/
theorem run_loadInputs (e : Nat → Nat) (order : List Nat) (rest : List Input) (s : State)
    (horder : ∀ n ∈ order, n < 128) (hinputs : s.inputs = loadInputs e order ++ rest) :
    ∃ t : State, Host.Core.run core (order.length + 1) s = .next t ∧ t.inputs = rest ∧
      ∀ r, (t.active.readReg r).toNat =
        if regIndex r ∈ order then storedValue r (BitVec.ofNat 32 (e (regIndex r)))
        else (s.staging.readReg r).toNat := by
  induction order generalizing s with
  | nil =>
    refine ⟨_, run_succ_of_next 0 s _ (step_commitInput hinputs), rfl, fun r => ?_⟩
    rw [if_neg List.not_mem_nil]
    rfl
  | cons n order ih =>
    obtain ⟨hn, hlt⟩ := List.forall_mem_cons.mp horder
    obtain ⟨q, rfl⟩ := exists_regIndex_eq hn
    obtain ⟨u, hstep, hpending, hstaged⟩ :=
      step_writeInput (rest := loadInputs e order ++ rest) hinputs
    obtain ⟨t, hrun, hrest, hregs⟩ := ih u hlt hpending
    refine ⟨t, (run_succ_of_next _ _ _ hstep).trans hrun, hrest, fun r => ?_⟩
    rw [hregs r, hstaged]
    by_cases hlater : regIndex r ∈ order
    · rw [if_pos hlater, if_pos (List.mem_cons_of_mem _ hlater)]
    · rw [if_neg hlater]
      by_cases hr : q = r
      · subst hr
        rw [if_pos List.mem_cons_self, readReg_writeReg_toNat]
      · have hnot : regIndex r ∉ regIndex q :: order :=
          List.not_mem_cons_of_ne_of_not_mem (regIndex_injective.ne (Ne.symm hr)) hlater
        rw [if_neg hnot, Table.readReg_writeReg_other _ _ _ _ hr]

/-- Settles O43: every register is in the order, so each holds the stored value of its number. -/
theorem loadingATable : Obligations.LoadingATable := by
  intro e order rest s horder hinputs
  obtain ⟨t, hrun, hrest, hregs⟩ :=
    run_loadInputs e order rest s (fun n hn => (horder n).mp hn) hinputs
  have hloaded : ∀ r, (t.active.readReg r).toNat =
      storedValue r (BitVec.ofNat 32 (e (regIndex r))) := fun r => by
    rw [hregs r, if_pos ((horder _).mpr (regIndex_lt r))]
  refine ⟨t, hrun, hrest, fun i => ⟨?cfg, ?addr⟩⟩
  case cfg =>
    rw [← Table.readReg_cfg_toNat, hloaded, storedValue, BitVec.toNat_ofNat, regIndex]
    omega
  case addr =>
    rw [← Table.readReg_addr, hloaded, storedValue, BitVec.toNat_ofNat, regIndex]

end Sys2Proof.Machine
end
